-- ==== Sys2Proof/Word.lean ====
section
/-! DEFINITION. The core's data types: bytes, host offsets, and the byte sequences of R8. Bytes are bits (R7); words and
blocks are sequences of bytes and are never packed into integers (R8, D24). -/

namespace Sys2Proof

/-- An unsigned byte, also an element of GF(2^8); bit 7 is the coefficient of x^7 (R7). -/
abbrev Byte := BitVec 8

/-- A host offset, 0x000 to 0x1FF (R6, R30). -/
abbrev Offset := BitVec 9

/-- A word `[b0, b1, b2, b3]`; `b0` is "the first byte" (R8). -/
abbrev Word := Vector Byte 4

/-- A block of 16 bytes; row `r`, column `c` of its matrix is byte `r + 4c` (R8). -/
abbrev Block := Vector Byte 16

/-- An expanded key of 176 bytes: round key `r` is bytes `[16r, 16r+16)`, word `i` is bytes `[4i, 4i+4)` (R5, R14). -/
abbrev ExpandedKey := Vector Byte 176

/-- The domain of `Rcon`: 1 to 10 only (R70). -/
abbrev RconIndex := { j : Nat // 1 ≤ j ∧ j ≤ 10 }

/-- The index of a word that KS computes: 4 to 43 (R26, R82). -/
abbrev WordIndex := { i : Nat // 4 ≤ i ∧ i ≤ 43 }

/-- The index of a round key: 0 to 10 (R25, R90). -/
abbrev RoundIndex := Fin 11

end Sys2Proof
end

