-- ==== Sys2Proof/Syntax.lean ====
section
/-! DEFINITION. The core's commands, one constructor per row of `spec/opcode_table.json` (R51). -/

namespace Sys2Proof

/-- A command of the core. Operands are implicit (R52): a command names no register and carries no address. -/
inductive Instr where
  /-- `EXPAND`, code 0x01 (R81). -/
  | expand
  /-- `ENCRYPT`, code 0x02 (R95). -/
  | encrypt
deriving DecidableEq, Repr

end Sys2Proof
end

