-- ==== Sys2Proof/Syntax/Host.lean ====
section
/-! DEFINITION. What the host can say to the core: the transactions of R56, and the statements of the host notation of R57
and R58 as they are written, with numbers that may be out of range (WellFormed.lean checks them). -/

namespace Sys2Proof

/-- One host operation as the port serves it: a transaction of R56, or the loop `POLL` of R58, whose number of reads is
not fixed. -/
inductive HostOp where
  /-- `(R, addr, -)`: `MemRead(addr, 1)` (R35). -/
  | read (addr : Offset)
  /-- `(W, addr, data)`: `MemWrite(addr, 1, data)` (R37). -/
  | write (addr : Offset) (data : Byte)
  /-- Read `STATUS` until the value read has bit 0 = 0 (R58). -/
  | poll
deriving DecidableEq, Repr

/-- A statement of the host notation (R57, R58), its numbers as written. -/
inductive HostStmt where
  /-- `WR a, v` -/
  | wr (a v : Nat)
  /-- `RD a` -/
  | rd (a : Nat)
  /-- `PUT a, h` -/
  | put (a : Nat) (h : List Nat)
  /-- `GET a, n` -/
  | get (a n : Nat)
  /-- `POLL` -/
  | poll
  /-- `EXPAND` -/
  | expand
  /-- `ENCRYPT` -/
  | encrypt
deriving DecidableEq, Repr

end Sys2Proof
end

