-- ==== Sys2Proof/WellFormed.lean ====
section
/-! DEFINITION. Well-formedness. A command has no field, so nothing about it can be ill-formed (R50, R52). A statement of the
host notation is well-formed when every transaction it stands for is one of R56: `addr` in 0x000 to 0x1FF, `data` in 0x00
to 0xFF. -/

namespace Sys2Proof

/-- Every command is well-formed: all eight bits of its byte are the code, there are no other fields (R50, R53). -/
def Instr.wellFormed : Instr → Bool
  | .expand => true
  | .encrypt => true

/-- An offset of the host space (R30, R33, R56). -/
def offsetOk (a : Nat) : Bool := decide (a ≤ 0x1FF)

/-- A byte of data (R33, R56). -/
def byteOk (v : Nat) : Bool := decide (v ≤ 0xFF)

/-- A run of `n` offsets from `a` lies inside the host space; the empty run asks nothing (R58: `a+0` to `a+n-1`). -/
def rangeOk (a n : Nat) : Bool := decide (n = 0 ∨ a + n ≤ 0x200)

/-- Every transaction the statement stands for is one of R56. -/
def HostStmt.wellFormed : HostStmt → Bool
  | .wr a v => offsetOk a && byteOk v
  | .rd a => offsetOk a
  | .put a h => rangeOk a h.length && h.all byteOk
  | .get a n => rangeOk a n
  | .poll => true
  | .expand => true
  | .encrypt => true

end Sys2Proof
end

