-- ==== Sys2Proof/Decode.lean ====
section
/-! DEFINITION. The command decoder, total on any bytes, and the encoder (R50, R51, R54). -/

namespace Sys2Proof

/-- A row of the opcode map (R51, `opcode_table.json`): a byte `v` is the row's command when `v & mask = code`. -/
structure OpcodeRow where
  mask : Byte
  code : Byte
  instr : Instr
deriving DecidableEq, Repr

/-- The opcode map of R51. -/
def opcodeRows : List OpcodeRow :=
  [ { mask := 0xFF#8, code := 0x01#8, instr := .expand },
    { mask := 0xFF#8, code := 0x02#8, instr := .encrypt } ]

/-- The command of a code byte; `none` for a reserved code (R51, R54). -/
def decodeCode (v : Byte) : Option Instr :=
  (opcodeRows.find? fun r => v &&& r.mask == r.code).map (·.instr)

/-- What the decoder reads from a list of bytes, by name. -/
inductive Decoded where
  /-- A command and the bytes after it. -/
  | command (i : Instr) (rest : List Byte)
  /-- A reserved code (R54) and the bytes after it. -/
  | reserved (code : Byte) (rest : List Byte)
  /-- There is no byte to decode. -/
  | noByte
deriving DecidableEq, Repr

/-- The decoder: one length (8 bits), no prefix, nothing to measure (R50). -/
def decode : List Byte → Decoded
  | [] => .noByte
  | v :: rest =>
    match decodeCode v with
    | some i => .command i rest
    | none => .reserved v rest

/-- The code of a command (R51). -/
def Instr.code : Instr → Byte
  | .expand => 0x01#8
  | .encrypt => 0x02#8

/-- The bytes of a command: its code and nothing else (R50). -/
def encode (i : Instr) : List Byte := [i.code]

/-- The bytes of a word of `nbits` bits as the opcode table numbers them: bits 7..0 are the first byte. -/
def tableBytes (nbits w : Nat) : List Byte :=
  (List.range (nbits / 8)).map fun k => BitVec.ofNat 8 (w / 2 ^ (8 * k))

/-- The command the decoder reads from a table word; `none` where it refuses, and where bytes are left over, since a write
to `CMD` carries exactly one byte (R50). -/
def decodeTableWord (nbits w : Nat) : Option Instr :=
  match decode (tableBytes nbits w) with
  | .command i [] => some i
  | .command _ (_ :: _) => none
  | .reserved _ _ => none
  | .noByte => none

end Sys2Proof
end

