-- ==== Sys2Proof/Config.lean ====
section
/-! DEFINITION. What is fixed for one core and not by the spec. The spec's own parameters (R5, R6) are taken at their one
value where they are used. Its open parameters `BASE`, `T_STEP`, the bus protocol and the reset signalling enter no rule
(R6, log 15) and are left out. What remains is the bytes that the data storage holds after power-on. -/

namespace Sys2Proof.Config

/-- FREE VALUE: the byte that a data byte holds in `State.reset`. R28: "a model draws each such byte freely at reset, under
no law, and a claim must hold for every draw". The argument is the byte's host offset; the hidden `ST[i]` has none and takes
0x200 + i. DESIGN CHOICE, unsafe: log 1. -/
opaque resetByte : Nat → Byte

end Sys2Proof.Config
end

