-- ==== Sys2Proof/Machine/State.lean ====
section
/-! DEFINITION. The machine's state (R10), the reasons a step can stop, and the state after reset (R28). -/

namespace Sys2Proof.Machine

/-- `OP`, 1 bit: which unit runs while `BUSY = 1`; 0 is KS, 1 is BC (R24). -/
inductive Engine where
  | ks
  | bc
deriving DecidableEq, Repr

/-- The bytes that a reset event leaves in the data storage: one free draw per byte (R28, R126). -/
structure ResetDraw where
  keybuf : Block
  inbuf : Block
  outbuf : Block
  ekmem : ExpandedKey
  st : Block
deriving DecidableEq, Repr

/-- Which agent moves next, where more than one may (R125, R135; log 2, log 3). -/
inductive Turn where
  /-- The host port, if the transaction at its head is enabled. -/
  | host
  /-- The running engine, if one runs. -/
  | engine
  /-- The reset input acts, and the data storage draws these bytes. -/
  | reset (draw : ResetDraw)
deriving DecidableEq, Repr

/-- What the host receives when a transaction completes normally (R35, R37, R41). A `BusError` is a fault (R38, log 7). -/
inductive Reply where
  /-- A read returned this byte. -/
  | data (v : Byte)
  /-- A write is done. -/
  | done
deriving DecidableEq, Repr

/-- The whole state of the core (R10), and three lists of the model's own that hold the outside world (log 3, 4, 6). -/
structure State where
  /-- `KEYBUF[0..16)` (R11). -/
  keybuf : Block
  /-- `INBUF[0..16)` (R12). -/
  inbuf : Block
  /-- `OUTBUF[0..16)` (R13). -/
  outbuf : Block
  /-- `EKMEM[0..176)` (R14). -/
  ekmem : ExpandedKey
  /-- `ST[0..16)`, hidden (R15). -/
  st : Block
  /-- `KLEN` (R19). -/
  klen : Byte
  /-- `BLEN` (R20). -/
  blen : Byte
  /-- `EKLEN` (R21). -/
  eklen : Byte
  /-- `ERR` (R18). -/
  err : Byte
  /-- `BUSY` (R23). -/
  busy : Bool
  /-- `OP`, hidden (R24). -/
  op : Engine
  /-- `RND`, hidden (R25). -/
  rnd : BitVec 4
  /-- `WIDX`, hidden (R26). -/
  widx : BitVec 6
  /-- The host operations still to be performed, the next one first (R41, R56). -/
  host : List HostOp
  /-- The turns that are settled in advance, the next one first (R135). -/
  sched : List Turn
  /-- The responses the host has received, the first one first (R41). -/
  replies : List Reply
deriving DecidableEq, Repr

/-- Why the machine stops with a fault. -/
inductive Fault where
  /-- A host read that the map does not permit: `CMD` or a reserved offset (R38). Raised by serving a read. Safe: the core's
  state is unchanged and the host program counts as having gone wrong (log 7). -/
  | busErrorRead (addr : Offset)
  /-- A host write that the map does not permit: `STATUS`, `ERR`, `OUTBUF` or a reserved offset (R38). Raised by serving a
  write. Safe (log 7). -/
  | busErrorWrite (addr : Offset) (data : Byte)
  /-- A KS engine step with `WIDX` outside 4 to 43, which never occurs (R26, I14). Raised by the KS engine step. Safe (log 8). -/
  | widxOutOfRange (widx : BitVec 6)
  /-- A BC engine step with `RND` outside 0 to 10, which never occurs (R25, I14). Raised by the BC engine step. Safe (log 8). -/
  | rndOutOfRange (rnd : BitVec 4)
deriving DecidableEq, Repr

/-- Why a step has no meaning. -/
inductive Refusal where
  /-- An instruction without a meaning in this model. Raised by an arm of `exec` only; no arm raises it. Safe. -/
  | notModelled (mnemonic : String)
deriving DecidableEq, Repr

/-- The bytes the data storage holds in `State.reset`: free values (R28, log 1). -/
def powerOnDraw : ResetDraw where
  keybuf := .ofFn fun i => Config.resetByte (0x010 + i.val)
  inbuf := .ofFn fun i => Config.resetByte (0x020 + i.val)
  outbuf := .ofFn fun i => Config.resetByte (0x030 + i.val)
  ekmem := .ofFn fun i => Config.resetByte (0x100 + i.val)
  st := .ofFn fun i => Config.resetByte (0x200 + i.val)

/-- The state after reset (R28, R126): control state zero, data bytes free, no transaction issued yet. -/
def State.reset : State where
  keybuf := powerOnDraw.keybuf
  inbuf := powerOnDraw.inbuf
  outbuf := powerOnDraw.outbuf
  ekmem := powerOnDraw.ekmem
  st := powerOnDraw.st
  klen := 0x00#8
  blen := 0x00#8
  eklen := 0x00#8
  err := 0x00#8
  busy := false
  op := .ks
  rnd := 0#4
  widx := 0#6
  host := []
  sched := []
  replies := []

end Sys2Proof.Machine
end

