-- ==== Sys2Proof/Machine/Operands.lean ====
section
/-! DEFINITION. Operands: what a host offset names (R31, R32), and the implicit operands of the commands (R52). -/

namespace Sys2Proof.Machine

/-- What stands at a host offset (R31). -/
inductive Location where
  | cmd
  | status
  | err
  | klen
  | blen
  | eklen
  | keybuf (i : Fin 16)
  | inbuf (i : Fin 16)
  | outbuf (i : Fin 16)
  | ekmem (i : Fin 176)
  /-- A reserved offset: 0x003, 0x007 to 0x00F, 0x040 to 0x0FF, 0x1B0 to 0x1FF. -/
  | reserved
deriving DecidableEq, Repr

/-- The address map of R31; byte `i` of a buffer is at offset `base + i` (R32). -/
def locate (a : Offset) : Location :=
  if a.toNat = 0x000 then .cmd
  else if a.toNat = 0x001 then .status
  else if a.toNat = 0x002 then .err
  else if a.toNat = 0x004 then .klen
  else if a.toNat = 0x005 then .blen
  else if a.toNat = 0x006 then .eklen
  else if h : 0x010 ≤ a.toNat ∧ a.toNat ≤ 0x01F then .keybuf ⟨a.toNat - 0x010, by omega⟩
  else if h : 0x020 ≤ a.toNat ∧ a.toNat ≤ 0x02F then .inbuf ⟨a.toNat - 0x020, by omega⟩
  else if h : 0x030 ≤ a.toNat ∧ a.toNat ≤ 0x03F then .outbuf ⟨a.toNat - 0x030, by omega⟩
  else if h : 0x100 ≤ a.toNat ∧ a.toNat ≤ 0x1AF then .ekmem ⟨a.toNat - 0x100, by omega⟩
  else .reserved

/-- The offset of a named location (R31, R57); a reserved offset has no name. -/
def Location.offset : Location → Option Offset
  | .cmd => some 0x000#9
  | .status => some 0x001#9
  | .err => some 0x002#9
  | .klen => some 0x004#9
  | .blen => some 0x005#9
  | .eklen => some 0x006#9
  | .keybuf i => some (BitVec.ofNat 9 (0x010 + i.val))
  | .inbuf i => some (BitVec.ofNat 9 (0x020 + i.val))
  | .outbuf i => some (BitVec.ofNat 9 (0x030 + i.val))
  | .ekmem i => some (BitVec.ofNat 9 (0x100 + i.val))
  | .reserved => none

/-- The offset of `CMD`. -/
def cmdOffset : Offset := 0x000#9

/-- The offset of `STATUS`. -/
def statusOffset : Offset := 0x001#9

/-- The length a cipher key must have (R53, R81). -/
def keyLength : Byte := 16#8

/-- The length a block must have (R53, R95). -/
def blockLength : Byte := 16#8

/-- The length an expanded key must have, and has when EXPAND completes (R53, R82, R95). -/
def expandedKeyLength : Byte := 176#8

/-- Word `i` of a block taken as four words, first byte first (R80: the input key bytes). -/
def blockWord (b : Block) (i : Fin 4) : Word := .ofFn fun k => b[4 * i.val + k.val]

/-- Word `w[i]` of an expanded key (R14). -/
def wordAt (ek : ExpandedKey) (i : Fin 44) : Word := .ofFn fun k => ek[4 * i.val + k.val]

/-- `EK[4i..4i+4) <- w` (R82). -/
def storeWord (ek : ExpandedKey) (i : Fin 44) (w : Word) : ExpandedKey :=
  .ofFn fun n => if n.val / 4 = i.val then w[n.val % 4] else ek[n.val]

/-- `EK[0..16) <- K` (R81). -/
def storeKey (ek : ExpandedKey) (key : Block) : ExpandedKey :=
  .ofFn fun n => if h : n.val < 16 then key[n.val] else ek[n.val]

/-- Round key `r` of an expanded key (R14, R32). -/
def roundKey (ek : ExpandedKey) (r : RoundIndex) : Block := .ofFn fun j => ek[16 * r.val + j.val]

end Sys2Proof.Machine
end

