-- ==== Sys2Proof/Machine/Flags.lean ====
section
/-! DEFINITION. Flags: the cause bits of `ERR` (R110) and the value of `STATUS` (R17). -/

namespace Sys2Proof.Machine

/-- `InvalidKeyLength`, bit 0 of `ERR` (R110, R111). -/
def errKeylen : Byte := 0x01#8

/-- `InvalidBlockLength`, bit 1 of `ERR` (R110, R112). -/
def errBlklen : Byte := 0x02#8

/-- `InvalidExpandedKeyLength`, bit 2 of `ERR` (R110, R113). -/
def errEklen : Byte := 0x04#8

/-- `BADCMD`, bit 3 of `ERR` (R110, R114). -/
def errBadcmd : Byte := 0x08#8

/-- `raise X`: include the bit in the set `e` when the condition holds (R110). -/
def raiseIf (cond : Bool) (bit e : Byte) : Byte := if cond then e ||| bit else e

/-- The causes of an EXPAND (R81): the key's declared length. -/
def expandErrors (s : State) : Byte := raiseIf (s.klen != keyLength) errKeylen 0x00#8

/-- The causes of an ENCRYPT (R95): both checks are always made, and each sets its own bit (R116). -/
def encryptErrors (s : State) : Byte :=
  raiseIf (s.eklen != expandedKeyLength) errEklen (raiseIf (s.blen != blockLength) errBlklen 0x00#8)

/-- `STATUS = zext_8(BUSY)` (R17). -/
def statusByte (s : State) : Byte := (BitVec.ofBool s.busy).setWidth 8

end Sys2Proof.Machine
end

