-- ==== Sys2Proof/Machine/Ops.lean ====
section
/-! DEFINITION. The named operations over the state: one home for every write, host access to a byte, the acceptance of a
command with its error entry, and reset. Writes listed in one rule take effect together (R9). -/

namespace Sys2Proof.Machine

/-! ### Writes of the state -/

/-- `ERR <- e` (R110). -/
def State.setErr (s : State) (e : Byte) : State := { s with err := e }

/-- `KLEN <- v` (R19). -/
def State.setKlen (s : State) (v : Byte) : State := { s with klen := v }

/-- `BLEN <- v` (R20). -/
def State.setBlen (s : State) (v : Byte) : State := { s with blen := v }

/-- `EKLEN <- v` (R21). -/
def State.setEklen (s : State) (v : Byte) : State := { s with eklen := v }

/-- `KEYBUF[i] <- v` (R11). -/
def State.setKeybuf (s : State) (i : Fin 16) (v : Byte) : State := { s with keybuf := s.keybuf.set i.val v }

/-- `INBUF[i] <- v` (R12). -/
def State.setInbuf (s : State) (i : Fin 16) (v : Byte) : State := { s with inbuf := s.inbuf.set i.val v }

/-- `EKMEM[i] <- v` (R14). -/
def State.setEkmem (s : State) (i : Fin 176) (v : Byte) : State := { s with ekmem := s.ekmem.set i.val v }

/-- What a well-formed EXPAND writes at its acceptance besides `ERR` (R81). -/
def State.startExpand (s : State) : State :=
  { s with ekmem := storeKey s.ekmem s.keybuf, widx := 4#6, op := .ks, busy := true }

/-- A KS engine step that is not the last one: a word, and the counter (R82). -/
def State.ksNext (s : State) (i : Fin 44) (w : Word) : State :=
  { s with ekmem := storeWord s.ekmem i w, widx := s.widx + 1#6 }

/-- The last KS engine step: a word, and the completion of the command (R82). -/
def State.ksLast (s : State) (i : Fin 44) (w : Word) : State :=
  { s with ekmem := storeWord s.ekmem i w, widx := 0#6, eklen := expandedKeyLength, busy := false }

/-- What a well-formed ENCRYPT writes at its acceptance besides `ERR` (R95). -/
def State.startEncrypt (s : State) : State := { s with st := s.inbuf, rnd := 0#4, op := .bc, busy := true }

/-- A BC engine step that is not the last one: the block state, and the counter (R96). -/
def State.bcNext (s : State) (b : Block) : State := { s with st := b, rnd := s.rnd + 1#4 }

/-- The last BC engine step: the block state, the result, and the completion of the command (R96). -/
def State.bcLast (s : State) (b : Block) : State := { s with st := b, outbuf := b, rnd := 0#4, busy := false }

/-- Reset: control state zero, every data byte as drawn (R28, R126). What the host still has to do stays with the host: a
held transaction is served after the reset (R127). -/
def State.takeReset (s : State) (d : ResetDraw) : State :=
  { keybuf := d.keybuf, inbuf := d.inbuf, outbuf := d.outbuf, ekmem := d.ekmem, st := d.st,
    klen := 0x00#8, blen := 0x00#8, eklen := 0x00#8, err := 0x00#8, busy := false, op := .ks, rnd := 0#4, widx := 0#6,
    host := s.host, sched := s.sched, replies := s.replies }

/-- The turn at the head of `sched` is taken (log 3). -/
def State.dropTurn (s : State) : State := { s with sched := s.sched.tail }

/-- The operation at the head of `host` has completed (R41). -/
def State.dropHost (s : State) : State := { s with host := s.host.tail }

/-- The host receives a response (R35, R37, R41). -/
def State.reply (s : State) (r : Reply) : State := { s with replies := s.replies ++ [r] }

/-! ### Host access to a byte, without the hold -/

/-- The byte a host read returns (R35); `none` is `BusError`. -/
def State.readByte (s : State) (a : Offset) : Option Byte :=
  match locate a with
  | .cmd => none
  | .status => some (statusByte s)
  | .err => some s.err
  | .klen => some s.klen
  | .blen => some s.blen
  | .eklen => some s.eklen
  | .keybuf i => some s.keybuf[i.val]
  | .inbuf i => some s.inbuf[i.val]
  | .outbuf i => some s.outbuf[i.val]
  | .ekmem i => some s.ekmem[i.val]
  | .reserved => none

/-- The state after a host write that stores a byte (R37); `none` where no byte is stored: `CMD`, whose write is a command,
and the offsets that answer `BusError`. -/
def State.storeByte (s : State) (a : Offset) (v : Byte) : Option State :=
  match locate a with
  | .cmd => none
  | .status => none
  | .err => none
  | .klen => some (s.setKlen v)
  | .blen => some (s.setBlen v)
  | .eklen => some (s.setEklen v)
  | .keybuf i => some (s.setKeybuf i v)
  | .inbuf i => some (s.setInbuf i v)
  | .outbuf _ => none
  | .ekmem i => some (s.setEkmem i v)
  | .reserved => none

/-! ### The readable window as cells -/

/-- The canonical form of a list of cells: addresses strictly rising, all in the host space (log 10). -/
def Memory.wf (m : List Host.Cell) : Bool :=
  decide (m.Pairwise fun x y => x.1 < y.1) && m.all fun x => decide (x.1 < 0x200)

/-- Every readable offset with the byte a host read returns there (R31, R35); an offset that is not listed has no byte. -/
def State.image (s : State) : List Host.Cell :=
  (List.range 0x200).filterMap fun n => (s.readByte (BitVec.ofNat 9 n)).map fun v => (n, v)

/-! ### Acceptance of a command, and error entry -/

/-- The acceptance of a command whose causes are `e`, the one shared operation (R81, R95, R117). While `BUSY = 1` the write
to `CMD` holds and has no effect (R36, log 9). Otherwise `ERR <- e`; a command with a cause has no other effect (error entry,
R117: no handler, no vector, nothing saved), a well-formed one also writes what `start` says. -/
def acceptCommand (s : State) (e : Byte) (start : State → State) : Host.Outcome State Fault Refusal :=
  if s.busy then .next s
  else if e = 0x00#8 then .next (start (s.setErr e))
  else .next (s.setErr e)

/-- A reserved code: a command that does nothing but fail (R54, R114). -/
def acceptReserved (s : State) : Host.Outcome State Fault Refusal := acceptCommand s errBadcmd id

end Sys2Proof.Machine
end

