-- ==== Sys2Proof/Machine/BlockCipher.lean ====
section
/-! DEFINITION. The block-cipher engine (BC): the round operations (R90 to R93), the function `Cipher` (R94), the command
ENCRYPT (R95) and the BC engine step (R96). Row `r`, column `c` of a block is byte `r + 4c`, so byte `j` is in row `j mod 4`
and column `j / 4` (R8). -/

namespace Sys2Proof.Machine

/-- `AddRoundKey(S, EK, r)` (R90). -/
def addRoundKey (b : Block) (ek : ExpandedKey) (r : RoundIndex) : Block :=
  .ofFn fun j => gadd b[j.val] (roundKey ek r)[j.val]

/-- `SubBytes(S)` (R91). -/
def subBytes (b : Block) : Block := .ofFn fun j => sbox b[j.val]

/-- `ShiftRows(S)`: `S'[r + 4c] = S[r + 4((c + r) mod 4)]` (R92). -/
def shiftRows (b : Block) : Block :=
  .ofFn fun j => b[j.val % 4 + 4 * ((j.val / 4 + j.val % 4) % 4)]

/-- One column of `MixColumns` (R93). -/
def mixColumn (a : Word) : Word :=
  #v[gmul 0x02#8 a[0] ^^^ gmul 0x03#8 a[1] ^^^ a[2] ^^^ a[3],
     a[0] ^^^ gmul 0x02#8 a[1] ^^^ gmul 0x03#8 a[2] ^^^ a[3],
     a[0] ^^^ a[1] ^^^ gmul 0x02#8 a[2] ^^^ gmul 0x03#8 a[3],
     gmul 0x03#8 a[0] ^^^ a[1] ^^^ a[2] ^^^ gmul 0x02#8 a[3]]

/-- `MixColumns(S)`: each column on its own (R93). -/
def mixColumns (b : Block) : Block :=
  .ofFn fun j => (mixColumn (blockWord b ⟨j.val / 4, by omega⟩))[j.val % 4]

/-- A standard round (R94, item 2). -/
def standardRound (ek : ExpandedKey) (r : RoundIndex) (b : Block) : Block :=
  addRoundKey (mixColumns (shiftRows (subBytes b))) ek r

/-- The final round, without MixColumns (R94, item 3). -/
def finalRound (ek : ExpandedKey) (b : Block) : Block := addRoundKey (shiftRows (subBytes b)) ek 10

/-- `Cipher(P, EK)` (R94). -/
def cipher (p : Block) (ek : ExpandedKey) : Block :=
  finalRound ek
    (([1, 2, 3, 4, 5, 6, 7, 8, 9] : List RoundIndex).foldl (fun b r => standardRound ek r b) (addRoundKey p ek 0))

/-- ENCRYPT, acceptance (R95). -/
def execEncrypt (s : State) : Host.Outcome State Fault Refusal := acceptCommand s (encryptErrors s) State.startEncrypt

/-- A BC engine step (R96), enabled when `BUSY = 1` and `OP = 1`; the values of `RND` that never occur fault (I14, log 8). -/
def bcStep (s : State) : Host.Outcome State Fault Refusal :=
  if s.rnd.toNat = 0 then .next (s.bcNext (addRoundKey s.st s.ekmem 0))
  else if h : s.rnd.toNat ≤ 9 then .next (s.bcNext (standardRound s.ekmem ⟨s.rnd.toNat, by omega⟩ s.st))
  else if s.rnd.toNat = 10 then .next (s.bcLast (finalRound s.ekmem s.st))
  else .fault (.rndOutOfRange s.rnd)

end Sys2Proof.Machine
end

