-- ==== Sys2Proof/Machine/KeySchedule.lean ====
section
/-! DEFINITION. The key schedule (KS): the function `ExpandKey` (R80), the command EXPAND (R81) and the KS engine step (R82). -/

namespace Sys2Proof.Machine

/-- The value of `temp` in iteration `i` of R80, from `w[i-1]`: sub-steps (a), (b), (c) when `i mod 4 = 0`. -/
def scheduleTemp (i : WordIndex) (prev : Word) : Word :=
  if i.val % 4 = 0 then
    let t := subWord (rotWord prev)
    #v[gadd t[0] (rcon ⟨i.val / 4, by have := i.property; omega⟩), t[1], t[2], t[3]]
  else prev

/-- `w[i] = w[i-4] xor temp` (R80). -/
def nextWord (i : WordIndex) (prev back : Word) : Word := wordXor back (scheduleTemp i prev)

/-- The words `w[n], w[n+1], w[n+2], w[n+3]` of the expansion of a key (R80). -/
def keyWindow (key : Block) : (n : Nat) → n ≤ 40 → Vector Word 4
  | 0, _ => #v[blockWord key 0, blockWord key 1, blockWord key 2, blockWord key 3]
  | n + 1, h =>
    let w := keyWindow key n (by omega)
    #v[w[1], w[2], w[3], nextWord ⟨n + 4, by omega⟩ w[3] w[0]]

/-- The word `w[i]` of the expansion of a key (R80). -/
def keyWord (key : Block) (i : Fin 44) : Word :=
  if h : i.val < 4 then blockWord key ⟨i.val, h⟩ else (keyWindow key (i.val - 3) (by omega))[3]

/-- `ExpandKey(K) = w[0] ++ w[1] ++ ... ++ w[43]` (R80). -/
def expandKey (key : Block) : ExpandedKey :=
  .ofFn fun n => (keyWord key ⟨n.val / 4, by omega⟩)[n.val % 4]

/-- EXPAND, acceptance (R81). -/
def execExpand (s : State) : Host.Outcome State Fault Refusal := acceptCommand s (expandErrors s) State.startExpand

/-- The word the KS engine step computes with `i = WIDX` (R82). -/
def ksWord (s : State) (i : WordIndex) : Word :=
  nextWord i (wordAt s.ekmem ⟨i.val - 1, by have := i.property; omega⟩)
    (wordAt s.ekmem ⟨i.val - 4, by have := i.property; omega⟩)

/-- A KS engine step (R82), enabled when `BUSY = 1` and `OP = 0`; the values of `WIDX` that never occur fault (I14, log 8). -/
def ksStep (s : State) : Host.Outcome State Fault Refusal :=
  if h : 4 ≤ s.widx.toNat ∧ s.widx.toNat ≤ 43 then
    if s.widx.toNat < 43 then .next (s.ksNext ⟨s.widx.toNat, by omega⟩ (ksWord s ⟨s.widx.toNat, h⟩))
    else .next (s.ksLast ⟨s.widx.toNat, by omega⟩ (ksWord s ⟨s.widx.toNat, h⟩))
  else .fault (.widxOutOfRange s.widx)

end Sys2Proof.Machine
end

