-- ==== Sys2Proof/Machine/Port.lean ====
section
/-! DEFINITION. The host port and the engines: which agent moves and what it does (R35 to R41, R125, R135). -/

namespace Sys2Proof.Machine

/-- The running engine's step (R82, R96); enabled when `BUSY = 1`. -/
def engineStep (s : State) : Host.Outcome State Fault Refusal :=
  match s.op with
  | .ks => ksStep s
  | .bc => bcStep s

/-- While `BUSY = 1`, everything but a read of `STATUS` holds (R36). -/
def held (s : State) : HostOp → Bool
  | .read a => s.busy && a != statusOffset
  | .write _ _ => s.busy
  | .poll => false

/-- A write of `v` to `CMD` issues the command whose code is `v` (R16, R51, R54). -/
def issueCommand (s : State) (v : Byte) : Host.Outcome State Fault Refusal :=
  match decodeCode v with
  | some i => exec i s
  | none => acceptReserved s

/-- A host read that is not held (R35). -/
def serveRead (s : State) (a : Offset) : Host.Outcome State Fault Refusal :=
  match s.readByte a with
  | some v => .next (s.dropHost.reply (.data v))
  | none => .fault (.busErrorRead a)

/-- A host write that is not held (R37). -/
def serveWrite (s : State) (a : Offset) (v : Byte) : Host.Outcome State Fault Refusal :=
  if a = cmdOffset then issueCommand (s.dropHost.reply .done) v
  else
    match s.storeByte a v with
    | some t => .next (t.dropHost.reply .done)
    | none => .fault (.busErrorWrite a v)

/-- One read of `STATUS` by `POLL`, which goes on until bit 0 reads 0 (R58). -/
def servePoll (s : State) : Host.Outcome State Fault Refusal :=
  if s.busy then .next (s.reply (.data (statusByte s)))
  else .next (s.dropHost.reply (.data (statusByte s)))

/-- The host operation at the head of `host`, which is not held. -/
def serve (s : State) : HostOp → Host.Outcome State Fault Refusal
  | .read a => serveRead s a
  | .write a v => serveWrite s a v
  | .poll => servePoll s

/-- The host has the turn: its operation is served unless it holds; then what is enabled is the engine (R36). A host with
nothing to do leaves the engine to run, or an idle core as it is (R122, log 18). -/
def hostTurn (s : State) : Host.Outcome State Fault Refusal :=
  match s.host with
  | [] => if s.busy then engineStep s else .next s
  | op :: _ => if held s op then engineStep s else serve s op

/-- The engine has the turn: its step is taken if it runs; an idle core serves the host. -/
def engineTurn (s : State) : Host.Outcome State Fault Refusal :=
  if s.busy then engineStep s else hostTurn s

/-- The next agent moves: the one at the head of `sched`; with no turn settled, the engine comes first (log 3). -/
def takeTurn (s : State) : Host.Outcome State Fault Refusal :=
  match s.sched with
  | [] => engineTurn s
  | .host :: _ => hostTurn s.dropTurn
  | .engine :: _ => engineTurn s.dropTurn
  | .reset d :: _ => .next (s.dropTurn.takeReset d)

end Sys2Proof.Machine
end

