-- ==== Sys2Proof/Machine/Step.lean ====
section
/-! DEFINITION. One step of the machine, and the placing of a command where the next step finds it. -/

namespace Sys2Proof.Machine

/-- One step: the next agent moves. -/
def step (s : State) : Host.Outcome State Fault Refusal := takeTurn s

/-- `s` with a command, given as the opcode table numbers its bits, where the next step runs it: at the head of the host's
operations as a write to `CMD`, the host having the turn, the core idle so that the write is not held (R36, log 16). -/
def State.withFetchWord (s : State) (nbits w : Nat) : State :=
  { s with
    host := .write cmdOffset (BitVec.ofNat 8 (w % 2 ^ nbits)) :: s.host
    sched := .host :: s.sched
    busy := false }

end Sys2Proof.Machine
end

