-- ==== Sys2Proof/Machine/HostNotation.lean ====
section
/-! DEFINITION. The host notation: the operations each statement stands for (R57, R58), and a host program placed before the
core. -/

namespace Sys2Proof.Machine

/-- `WR a, v` as a transaction (R57). -/
def writeOp (a v : Nat) : HostOp := .write (BitVec.ofNat 9 a) (BitVec.ofNat 8 v)

/-- `RD a` as a transaction (R57). -/
def readOp (a : Nat) : HostOp := .read (BitVec.ofNat 9 a)

/-- `WR a, h[0]; WR a+1, h[1]; ...` (R58, `PUT`). -/
def putOps : Nat → List Nat → List HostOp
  | _, [] => []
  | a, v :: h => writeOp a v :: putOps (a + 1) h

/-- The expansion of a well-formed statement (R57, R58). -/
def stmtOps : HostStmt → List HostOp
  | .wr a v => [writeOp a v]
  | .rd a => [readOp a]
  | .put a h => putOps a h
  | .get a n => (List.range n).map fun k => readOp (a + k)
  | .poll => [.poll]
  | .expand => [.write cmdOffset Instr.expand.code]
  | .encrypt => [.write cmdOffset Instr.encrypt.code]

/-- The operations of a host program, its statements performed top to bottom (R57). -/
def programOps (p : List HostStmt) : List HostOp := p.flatMap stmtOps

/-- The machine with a host program still to be performed: how a program comes to run (log 4). -/
def State.withProgram (s : State) (p : List HostStmt) : State := { s with host := programOps p }

end Sys2Proof.Machine
end

