-- ==== Sys2Proof/Safety.lean ====
section
/-! DEFINITION. What counts as a safe run, in the terms the statements use: the invariants of the machine, a host that asks
for nothing the map does not permit, the end of a host program, and what two states must share to move alike. -/

namespace Sys2Proof.Safety

open Sys2Proof.Machine

/-- The values `ERR` can ever hold (R110). -/
def errValues : List Byte := [0x00#8, 0x01#8, 0x02#8, 0x04#8, 0x06#8, 0x08#8]

/-- The control state of every reachable state: `ERR` (R110), the counters (R22, R25, R26), and what the acceptance of the
running command checked (R81, R95). -/
structure ControlInv (s : State) : Prop where
  errLegal : s.err ∈ errValues
  idleCounters : s.busy = false → s.rnd = 0#4 ∧ s.widx = 0#6
  busyErr : s.busy = true → s.err = 0x00#8
  ksRunning : s.busy = true → s.op = .ks → 4 ≤ s.widx.toNat ∧ s.widx.toNat ≤ 43 ∧ s.rnd = 0#4 ∧ s.klen = keyLength
  bcRunning : s.busy = true → s.op = .bc →
    s.rnd.toNat ≤ 10 ∧ s.widx = 0#6 ∧ s.blen = blockLength ∧ s.eklen = expandedKeyLength

/-- The value of `state` in R94 when `n` round keys, 0 to `n - 1`, have been added and the final round has not begun. -/
def stateBefore (p : Block) (ek : ExpandedKey) : Nat → Block
  | 0 => p
  | 1 => addRoundKey p ek 0
  | n + 2 =>
    if h : n + 1 ≤ 9 then standardRound ek ⟨n + 1, by omega⟩ (stateBefore p ek (n + 1))
    else stateBefore p ek (n + 1)

/-- The data a running engine has produced so far: the first `WIDX` words are those of `ExpandKey(KEYBUF)` (R82), `ST` is the
state of `Cipher(INBUF, EKMEM)` (R96). -/
structure EngineInv (s : State) : Prop where
  ksWords : s.busy = true → s.op = .ks →
    ∀ (n : Nat) (h : n < 176), n < 4 * s.widx.toNat → s.ekmem[n] = (expandKey s.keybuf)[n]
  bcState : s.busy = true → s.op = .bc → s.st = stateBefore s.inbuf s.ekmem s.rnd.toNat

/-- The invariant of the whole machine. -/
structure Inv (s : State) : Prop where
  control : ControlInv s
  engine : EngineInv s

/-- The host operation gets no `BusError` (R38). -/
def permitted : HostOp → Bool
  | .read a =>
    match locate a with
    | .cmd | .reserved => false
    | .status | .err | .klen | .blen | .eklen | .keybuf _ | .inbuf _ | .outbuf _ | .ekmem _ => true
  | .write a _ =>
    match locate a with
    | .status | .err | .outbuf _ | .reserved => false
    | .cmd | .klen | .blen | .eklen | .keybuf _ | .inbuf _ | .ekmem _ => true
  | .poll => true

/-- No turn of the schedule is a reset. -/
def noReset (ts : List Turn) : Bool :=
  ts.all fun t =>
    match t with
    | .host | .engine => true
    | .reset _ => false

/-- The next turn is not a reset. -/
def notResetNext (s : State) : Bool := noReset s.sched.head?.toList

/-- A host program has ended when its last transaction has completed; its end state is the one in which the command has also
completed (R136). -/
def ended (s : State) : Bool := s.host.isEmpty && !s.busy

/-- A run of `n` steps neither faults nor is refused. -/
def SafeFor (n : Nat) (s : State) : Prop := ∃ t, Host.Core.run Sys2Proof.core n s = .next t

/-- Two outcomes of one kind, related states, equal reasons. -/
def OutcomeRel (R : State → State → Prop) :
    Host.Outcome State Fault Refusal → Host.Outcome State Fault Refusal → Prop
  | .next s, .next t => R s t
  | .fault f, .fault g => f = g
  | .refused f, .refused g => f = g
  | .next _, .fault _ | .next _, .refused _ | .fault _, .next _ | .fault _, .refused _ | .refused _, .next _
  | .refused _, .fault _ => False

/-- Two states that agree in everything but the data bytes (`KEYBUF`, `INBUF`, `OUTBUF`, `EKMEM`, `ST`) and the bytes that
reads have returned (R134). -/
structure SameControl (s t : State) : Prop where
  klen : s.klen = t.klen
  blen : s.blen = t.blen
  eklen : s.eklen = t.eklen
  err : s.err = t.err
  busy : s.busy = t.busy
  op : s.op = t.op
  rnd : s.rnd = t.rnd
  widx : s.widx = t.widx
  host : s.host = t.host
  sched : s.sched = t.sched
  replies : s.replies.length = t.replies.length

end Sys2Proof.Safety
end

