-- ==== Sys2Proof/Certificates/Slice0/Obligations.lean ====
section
/-! DEFINITION. The statements about the core, for the provers. Each says which rule of the spec it formalises. Statements about
a step name what the step adds around a meaning: the turn taken (`sched`), the host operation completed (`host`), the response
given (`replies`); these three fields are the model's own (log 3, 4, 6). -/

open Sys2Proof Sys2Proof.Machine Sys2Proof.Safety

/-! ### Encoding -/

/-- R51: the opcode map, every one of the 256 values in exactly one row. -/
def Obligations.OpcodeMapDecodes : Prop :=
  decode [0x01#8] = .command .expand [] ∧ decode [0x02#8] = .command .encrypt [] ∧
  decodeTableWord 8 0x01 = some .expand ∧ decodeTableWord 8 0x02 = some .encrypt ∧
  ∀ v : Byte, v ≠ 0x01#8 → v ≠ 0x02#8 → decode [v] = .reserved v []

/-- R50, R51: a list of bytes decodes to a command exactly when it begins with the command's encoding, and what is left over
is what follows it. -/
def Obligations.DecodeAgreesWithEncode : Prop :=
  ∀ (bs rest : List Byte) (i : Instr), decode bs = .command i rest ↔ bs = encode i ++ rest

/-- R31, R32: the address map and the offsets of the named locations are inverse to each other: every location that is not
reserved has exactly one offset, and it is found there. -/
def Obligations.AddressMapIsOneToOne : Prop :=
  ∀ (a : Offset) (l : Location), l.offset = some a ↔ locate a = l ∧ l ≠ .reserved

/-- R31: the reserved offsets are 0x003, 0x007 to 0x00F, 0x040 to 0x0FF and 0x1B0 to 0x1FF, and no others. -/
def Obligations.ReservedOffsetsAreTheListed : Prop :=
  ∀ a : Offset, locate a = .reserved ↔
    a.toNat = 0x003 ∨ (0x007 ≤ a.toNat ∧ a.toNat ≤ 0x00F) ∨ (0x040 ≤ a.toNat ∧ a.toNat ≤ 0x0FF) ∨ 0x1B0 ≤ a.toNat

/-- R58: the transactions of `PUT a, h`: one write per byte, in order, byte `k` to offset `a + k`, when the statement is
well-formed. -/
def Obligations.PutWritesItsBytesInOrder : Prop :=
  ∀ (a : Nat) (h : List Nat), (HostStmt.put a h).wellFormed = true →
    (stmtOps (.put a h)).length = h.length ∧
    ∀ (k : Nat) (hk : k < h.length), ∃ (o : Offset) (v : Byte),
      (stmtOps (.put a h))[k]? = some (.write o v) ∧ o.toNat = a + k ∧ v.toNat = h[k]

/-! ### The GF(2^8) unit -/

/-- R61: `gadd` is xor, a commutative and associative operation with identity 0x00 in which every element is its own negative. -/
def Obligations.GaddIsXorGroup : Prop :=
  (∀ a b : Byte, gadd a b = a ^^^ b ∧ gadd a b = gadd b a) ∧
  (∀ a b c : Byte, gadd (gadd a b) c = gadd a (gadd b c)) ∧
  (∀ a : Byte, gadd a 0x00#8 = a ∧ gadd a a = 0x00#8) ∧ gadd 0x57#8 0x83#8 = 0xD4#8

/-- R62: the two forms of `xtime` agree; it is linear and a permutation; the corner cases and the example. -/
def Obligations.XtimeIsLinearPermutation : Prop :=
  (∀ a : Byte, xtime a = xtimeNineBit a) ∧
  (∀ a b : Byte, xtime (a ^^^ b) = xtime a ^^^ xtime b) ∧
  (∀ c : Byte, ∃ a : Byte, xtime a = c ∧ ∀ b : Byte, xtime b = c → b = a) ∧
  xtime 0x00#8 = 0x00#8 ∧ xtime 0x7F#8 = 0xFE#8 ∧ xtime 0x80#8 = 0x1B#8 ∧ xtime 0xFF#8 = 0xE5#8 ∧ xtime 0x8D#8 = 0x01#8 ∧
  xtime 0x57#8 = 0xAE#8 ∧ xtime 0xAE#8 = 0x47#8 ∧ xtime 0x47#8 = 0x8E#8 ∧ xtime 0x8E#8 = 0x07#8

/-- R63: `gmul(a, b)` is the xor, over every `k` with `b[k] = 1`, of `a` doubled `k` times; the corner cases and the examples. -/
def Obligations.GmulIsXorOfDoublings : Prop :=
  (∀ a b : Byte, gmul a b =
    (List.range 8).foldr (fun k p => (if b.getLsbD k then doublings a k else 0x00#8) ^^^ p) 0x00#8) ∧
  (∀ a : Byte, gmul a 0x00#8 = 0x00#8 ∧ gmul 0x00#8 a = 0x00#8 ∧ gmul a 0x01#8 = a ∧ gmul a 0x02#8 = xtime a) ∧
  gmul 0x57#8 0x83#8 = 0xC1#8 ∧ gmul 0x57#8 0x13#8 = 0xFE#8 ∧ gmul 0xFF#8 0xFF#8 = 0x13#8 ∧ gmul 0x53#8 0xCA#8 = 0x01#8

/-- R64: with `gadd` and `gmul` the 256 bytes form a field, and the products by 1, 2 and 3 are the ones BC uses. -/
def Obligations.BytesFormAField : Prop :=
  (∀ a b : Byte, gmul a b = gmul b a) ∧
  (∀ a b c : Byte, gmul (gmul a b) c = gmul a (gmul b c)) ∧
  (∀ a b c : Byte, gmul a (gadd b c) = gadd (gmul a b) (gmul a c)) ∧
  (∀ a b : Byte, gadd a b = gadd b a) ∧ (∀ a b c : Byte, gadd (gadd a b) c = gadd a (gadd b c)) ∧
  (∀ a : Byte, gadd 0x00#8 a = a ∧ gmul 0x01#8 a = a) ∧
  (∀ a : Byte, a ≠ 0x00#8 → ∃ b : Byte, gmul a b = 0x01#8 ∧ ∀ c : Byte, gmul a c = 0x01#8 → c = b) ∧
  (∀ a : Byte, gmul 0x01#8 a = a ∧ gmul 0x02#8 a = xtime a ∧ gmul 0x03#8 a = xtime a ^^^ a)

/-- R65: `ginv(a)` is the unique inverse of `a` when `a` is not 0x00, it is 0x00 at 0x00, it is `a^254`, and it is its own
inverse; the corner cases and the example. `ginv(0x00)` rests on general knowledge (G1, log 12). -/
def Obligations.GinvIsTheUniqueInverse : Prop :=
  ginv 0x00#8 = 0x00#8 ∧
  (∀ a b : Byte, a ≠ 0x00#8 → (gmul a b = 0x01#8 ↔ b = ginv a)) ∧
  (∀ a : Byte, ginv a = gpow a 254 ∧ ginv (ginv a) = a) ∧
  ginv 0x01#8 = 0x01#8 ∧ ginv 0x02#8 = 0x8D#8 ∧ ginv 0x03#8 = 0xF6#8 ∧ ginv 0xFF#8 = 0x1C#8 ∧ ginv 0x53#8 = 0xCA#8

/-- R66: the bitwise form of `affine`, its law over xor, its inverse; the corner cases and the example. The coefficients rest
on general knowledge (G2, log 12). -/
def Obligations.AffineBitwiseAndInvertible : Prop :=
  (∀ (a : Byte) (i : Nat), i < 8 → (affine a).getLsbD i =
    (a.getLsbD i ^^ a.getLsbD ((i + 4) % 8) ^^ a.getLsbD ((i + 5) % 8) ^^ a.getLsbD ((i + 6) % 8) ^^
      a.getLsbD ((i + 7) % 8) ^^ (0x63#8).getLsbD i)) ∧
  (∀ a b : Byte, affine (a ^^^ b) = affine a ^^^ affine b ^^^ 0x63#8) ∧
  (∀ a : Byte, invAffine (affine a) = a ∧ affine (invAffine a) = a) ∧
  affine 0x00#8 = 0x63#8 ∧ affine 0x01#8 = 0x7C#8 ∧ affine 0xFF#8 = 0x9C#8 ∧ affine 0xCA#8 = 0xED#8

/-- R67: `SBox` is `affine` after `ginv`, a permutation of the bytes with no fixed point and no anti-fixed point; the corner
cases and the example. -/
def Obligations.SboxPermutesWithoutFixedPoint : Prop :=
  (∀ a : Byte, sbox a = affine (ginv a)) ∧
  (∀ c : Byte, ∃ a : Byte, sbox a = c ∧ ∀ b : Byte, sbox b = c → b = a) ∧
  (∀ a : Byte, sbox a ≠ a ∧ sbox a ≠ a ^^^ 0xFF#8) ∧
  sbox 0x00#8 = 0x63#8 ∧ sbox 0x01#8 = 0x7C#8 ∧ sbox 0xFF#8 = 0x16#8 ∧ sbox 0x52#8 = 0x00#8 ∧ sbox 0x53#8 = 0xED#8

/-- R68: the printed S-box table is the function of R65 to R67, entry by entry. -/
def Obligations.SboxEqualsPrintedTable : Prop :=
  sboxTable.length = 256 ∧ ∀ a : Byte, sboxTable[a.toNat]? = some (sbox a)

/-- R69: `InvSBox` undoes `SBox` and is undone by it, and is the printed table. -/
def Obligations.InvSboxUndoesSbox : Prop :=
  (∀ a : Byte, invSbox (sbox a) = a ∧ sbox (invSbox a) = a) ∧
  invSboxTable.length = 256 ∧ ∀ y : Byte, invSboxTable[y.toNat]? = some (invSbox y)

/-- R70: `Rcon[1] = 0x01`, each next one is the double, and the ten values are the printed ones. -/
def Obligations.RconDoublesFromOne : Prop :=
  rcon ⟨1, by omega⟩ = 0x01#8 ∧
  (∀ (j : Nat) (h : 2 ≤ j ∧ j ≤ 10), rcon ⟨j, by omega⟩ = xtime (rcon ⟨j - 1, by omega⟩)) ∧
  rcon ⟨2, by omega⟩ = 0x02#8 ∧ rcon ⟨3, by omega⟩ = 0x04#8 ∧ rcon ⟨4, by omega⟩ = 0x08#8 ∧ rcon ⟨5, by omega⟩ = 0x10#8 ∧
  rcon ⟨6, by omega⟩ = 0x20#8 ∧ rcon ⟨7, by omega⟩ = 0x40#8 ∧ rcon ⟨8, by omega⟩ = 0x80#8 ∧ rcon ⟨9, by omega⟩ = 0x1B#8 ∧
  rcon ⟨10, by omega⟩ = 0x36#8

/-- R71, R72: `RotWord` moves each byte one place down, `SubWord` substitutes each byte in place, they commute, and four
rotations give the operand back; the corner cases and the examples. -/
def Obligations.RotWordAndSubWordCommute : Prop :=
  (∀ t0 t1 t2 t3 : Byte, rotWord #v[t0, t1, t2, t3] = #v[t1, t2, t3, t0] ∧
    subWord #v[t0, t1, t2, t3] = #v[sbox t0, sbox t1, sbox t2, sbox t3]) ∧
  (∀ t : Word, subWord (rotWord t) = rotWord (subWord t) ∧ rotWord (rotWord (rotWord (rotWord t))) = t) ∧
  (∀ b : Byte, rotWord #v[b, b, b, b] = #v[b, b, b, b]) ∧
  rotWord #v[0x0C#8, 0x0D#8, 0x0E#8, 0x0F#8] = #v[0x0D#8, 0x0E#8, 0x0F#8, 0x0C#8] ∧
  subWord #v[0, 0, 0, 0] = #v[0x63#8, 0x63#8, 0x63#8, 0x63#8] ∧
  subWord #v[0x0D#8, 0x0E#8, 0x0F#8, 0x0C#8] = #v[0xD7#8, 0xAB#8, 0x76#8, 0xFE#8]

/-! ### The functions of the two units -/

/-- R80: the words of `ExpandKey(K)`: the first four are the key, and `w[i] = w[i-4] xor temp` for `i` in 4 to 43, byte by
byte, with RotWord, SubWord and Rcon applied to `temp` exactly when `i mod 4 = 0`. -/
def Obligations.ExpandKeyFollowsTheRecurrence : Prop :=
  ∀ key : Block,
    (∀ (n : Nat) (h : n < 16), (expandKey key)[n] = key[n]) ∧
    ∀ (i k : Nat) (hi : 4 ≤ i ∧ i ≤ 43) (hk : k < 4),
      (expandKey key)[4 * i + k] = (expandKey key)[4 * (i - 4) + k] ^^^
        (if i % 4 = 0 then
          sbox (expandKey key)[4 * (i - 1) + (k + 1) % 4] ^^^ (if k = 0 then rcon ⟨i / 4, by omega⟩ else 0x00#8)
        else (expandKey key)[4 * (i - 1) + k])

/-- R85: `ExpandKey` is injective, because its first 16 bytes are the key. -/
def Obligations.ExpandKeyIsInjective : Prop :=
  ∀ k1 k2 : Block, (∀ (n : Nat) (h : n < 16), (expandKey k1)[n] = (expandKey k2)[n]) → k1 = k2

/-- R90: `AddRoundKey` xors byte `j` of the block with byte `16r + j` of the expanded key, and is its own inverse. -/
def Obligations.AddRoundKeyIsItsOwnInverse : Prop :=
  ∀ (b : Block) (ek : ExpandedKey) (r : RoundIndex),
    (∀ (j : Nat) (h : j < 16), (addRoundKey b ek r)[j] = b[j] ^^^ ek[16 * r.val + j]) ∧
    addRoundKey (addRoundKey b ek r) ek r = b

/-- R92: `ShiftRows` is the printed permutation of byte positions, it commutes with `SubBytes`, four applications give the
operand back, and a block of four equal columns is unchanged. Which operation `SubBytes` is, R91 says: every byte through the
S-box, in its place. -/
def Obligations.ShiftRowsIsThePrintedPermutation : Prop :=
  (∀ b : Block, shiftRows b = #v[b[0], b[5], b[10], b[15], b[4], b[9], b[14], b[3],
    b[8], b[13], b[2], b[7], b[12], b[1], b[6], b[11]]) ∧
  (∀ (b : Block) (j : Nat) (h : j < 16), (subBytes b)[j] = sbox b[j]) ∧
  (∀ b : Block, shiftRows (subBytes b) = subBytes (shiftRows b)) ∧
  (∀ b : Block, shiftRows (shiftRows (shiftRows (shiftRows b))) = b) ∧
  (∀ b : Block, (∀ (j : Nat) (h : j < 12), b[j + 4] = b[j]) → shiftRows b = b)

/-- R93: `MixColumns` column by column; it is linear over GF(2), leaves a column of four equal bytes unchanged, and maps the
unit columns to the columns of the matrix; the example. -/
def Obligations.MixColumnsIsLinear : Prop :=
  (∀ (a b x : Block), (∀ (j : Nat) (h : j < 16), x[j] = a[j] ^^^ b[j]) →
    ∀ (j : Nat) (h : j < 16), (mixColumns x)[j] = (mixColumns a)[j] ^^^ (mixColumns b)[j]) ∧
  (∀ x : Byte, mixColumn #v[x, x, x, x] = #v[x, x, x, x]) ∧
  (∀ (b : Block) (c : Nat) (hc : c < 4),
    (mixColumns b)[4 * c] = gmul 2 b[4 * c] ^^^ gmul 3 b[4 * c + 1] ^^^ b[4 * c + 2] ^^^ b[4 * c + 3] ∧
    (mixColumns b)[4 * c + 1] = b[4 * c] ^^^ gmul 2 b[4 * c + 1] ^^^ gmul 3 b[4 * c + 2] ^^^ b[4 * c + 3] ∧
    (mixColumns b)[4 * c + 2] = b[4 * c] ^^^ b[4 * c + 1] ^^^ gmul 2 b[4 * c + 2] ^^^ gmul 3 b[4 * c + 3] ∧
    (mixColumns b)[4 * c + 3] = gmul 3 b[4 * c] ^^^ b[4 * c + 1] ^^^ b[4 * c + 2] ^^^ gmul 2 b[4 * c + 3]) ∧
  mixColumn #v[1, 0, 0, 0] = #v[2, 1, 1, 3] ∧ mixColumn #v[0, 1, 0, 0] = #v[3, 2, 1, 1] ∧
  mixColumn #v[0, 0, 1, 0] = #v[1, 3, 2, 1] ∧ mixColumn #v[0, 0, 0, 1] = #v[1, 1, 3, 2] ∧
  mixColumn #v[0xDB#8, 0x13#8, 0x53#8, 0x45#8] = #v[0x8E#8, 0x4D#8, 0xA1#8, 0xBC#8]

/-- R94: for a fixed expanded key, `Cipher` is a bijection on blocks (R99: two different blocks give two different outputs). -/
def Obligations.CipherIsABijection : Prop :=
  ∀ (ek : ExpandedKey) (c : Block), ∃ p : Block, cipher p ek = c ∧ ∀ q : Block, cipher q ek = c → q = p

/-! ### Commands -/

/-- R16, R51: a step that serves a write to `CMD` runs the decoded command, on the state in which the turn is taken, the
write has completed and the host has its response. -/
def Obligations.StepRunsTheDecodedCommand : Prop :=
  ∀ (s : State) (v : Byte) (i : Instr) (rest : List HostOp),
    s.busy = false → s.host = .write 0x000#9 v :: rest → notResetNext s = true → decode [v] = .command i [] →
    i.wellFormed = true →
    step s = exec i { s with sched := s.sched.tail, host := rest, replies := s.replies ++ [.done] }

/-- R54: a write of a reserved code is accepted as a command that does nothing but fail. -/
def Obligations.ReservedCodeOnlySetsBadcmd : Prop :=
  ∀ (s : State) (v : Byte) (rest : List HostOp),
    s.busy = false → s.host = .write 0x000#9 v :: rest → notResetNext s = true → v ≠ 0x01#8 → v ≠ 0x02#8 →
    step s = .next { s with sched := s.sched.tail, host := rest, replies := s.replies ++ [.done], err := 0x08#8 }

/-- R81: EXPAND, acceptance: with `KLEN = 16` it completes with the key copied, the counter at 4 and KS running; with any other
length it completes with `ERR = 0x01` and nothing else changed. -/
def Obligations.ExpandAcceptance : Prop :=
  ∀ s : State, s.busy = false →
    (s.klen = 16#8 → exec .expand s = .next { s with
      err := 0x00#8
      ekmem := .ofFn fun n => if h : n.val < 16 then s.keybuf[n.val] else s.ekmem[n.val]
      widx := 4#6
      op := .ks
      busy := true }) ∧
    (s.klen ≠ 16#8 → exec .expand s = .next { s with err := 0x01#8 })

/-- R95, R116: ENCRYPT, acceptance: with `BLEN = 16` and `EKLEN = 176` it completes with the block copied, the counter at 0 and
BC running; otherwise it completes with the bit of every wrong length in `ERR` and nothing else changed. -/
def Obligations.EncryptAcceptance : Prop :=
  ∀ s : State, s.busy = false →
    (s.blen = 16#8 → s.eklen = 176#8 → exec .encrypt s = .next { s with
      err := 0x00#8
      st := s.inbuf
      rnd := 0#4
      op := .bc
      busy := true }) ∧
    (s.blen ≠ 16#8 → s.eklen = 176#8 → exec .encrypt s = .next { s with err := 0x02#8 }) ∧
    (s.blen = 16#8 → s.eklen ≠ 176#8 → exec .encrypt s = .next { s with err := 0x04#8 }) ∧
    (s.blen ≠ 16#8 → s.eklen ≠ 176#8 → exec .encrypt s = .next { s with err := 0x06#8 })

/-- R110: every write to `CMD` performed with `BUSY = 0` replaces the whole of `ERR` by the set of causes of that command, and
the command runs exactly when the set is empty. -/
def Obligations.CommandWriteReportsItsCauses : Prop :=
  ∀ (s : State) (v : Byte) (rest : List HostOp),
    s.busy = false → s.host = .write 0x000#9 v :: rest → notResetNext s = true →
    ∃ t : State, step s = .next t ∧
      t.err =
        (if v = 0x01#8 then (if s.klen = 16#8 then 0x00#8 else 0x01#8)
        else if v = 0x02#8 then (if s.blen = 16#8 then 0x00#8 else 0x02#8) ||| (if s.eklen = 176#8 then 0x00#8 else 0x04#8)
        else 0x08#8) ∧
      (t.busy = true ↔ t.err = 0x00#8)

/-- R117: a command that fails changes `ERR` and nothing else; no engine step becomes enabled. -/
def Obligations.FailedCommandChangesOnlyErr : Prop :=
  ∀ (s t : State) (v : Byte) (rest : List HostOp),
    s.busy = false → s.host = .write 0x000#9 v :: rest → notResetNext s = true → step s = .next t → t.err ≠ 0x00#8 →
    t = { s with sched := s.sched.tail, host := rest, replies := s.replies ++ [.done], err := t.err }

/-- R81, R84: the frame of EXPAND. Every readable byte but `STATUS`, `ERR` and the sixteen bytes `EKMEM[0..16)` that a well-formed
EXPAND stores is unchanged, and so are the registers it does not write. -/
def Obligations.ExpandFrame : Prop :=
  ∀ s t : State, exec .expand s = .next t →
    (∀ a : Offset, a ≠ 0x001#9 → a ≠ 0x002#9 → (∀ k : Fin 16, (Location.ekmem ⟨k.val, by omega⟩).offset ≠ some a) →
      t.readByte a = s.readByte a) ∧
    (s.klen ≠ 16#8 → ∀ a : Offset, a ≠ 0x002#9 → t.readByte a = s.readByte a) ∧
    t.keybuf = s.keybuf ∧ t.inbuf = s.inbuf ∧ t.outbuf = s.outbuf ∧ t.st = s.st ∧ t.klen = s.klen ∧ t.blen = s.blen ∧
    t.eklen = s.eklen ∧ t.rnd = s.rnd ∧ t.host = s.host ∧ t.sched = s.sched ∧ t.replies = s.replies

/-- R95: the frame of ENCRYPT. Every readable byte but `STATUS` and `ERR` is unchanged, and so are the registers it does not
write; all of `EKMEM` is. -/
def Obligations.EncryptFrame : Prop :=
  ∀ s t : State, exec .encrypt s = .next t →
    (∀ a : Offset, a ≠ 0x001#9 → a ≠ 0x002#9 → t.readByte a = s.readByte a) ∧
    (s.blen ≠ 16#8 ∨ s.eklen ≠ 176#8 → ∀ a : Offset, a ≠ 0x002#9 → t.readByte a = s.readByte a) ∧
    t.keybuf = s.keybuf ∧ t.inbuf = s.inbuf ∧ t.outbuf = s.outbuf ∧ t.ekmem = s.ekmem ∧ t.klen = s.klen ∧
    t.blen = s.blen ∧ t.eklen = s.eklen ∧ t.widx = s.widx ∧ t.host = s.host ∧ t.sched = s.sched ∧
    t.replies = s.replies

/-! ### Engine steps -/

/-- R82: the KS engine step computes word `i = WIDX`, for `i` in 4 to 43, and writes no other byte of `EKMEM`; it advances the
counter, and with `i = 43` completes the command. -/
def Obligations.KsEngineStepComputesOneWord : Prop :=
  ∀ (s : State) (h : 4 ≤ s.widx.toNat ∧ s.widx.toNat ≤ 43), s.op = .ks →
    ∃ ek : ExpandedKey,
      (∀ (n : Nat) (hn : n < 176), n / 4 ≠ s.widx.toNat → ek[n] = s.ekmem[n]) ∧
      (∀ (k : Nat) (hk : k < 4), ek[4 * s.widx.toNat + k] = s.ekmem[4 * (s.widx.toNat - 4) + k] ^^^
        (if s.widx.toNat % 4 = 0 then
          sbox s.ekmem[4 * (s.widx.toNat - 1) + (k + 1) % 4] ^^^
            (if k = 0 then rcon ⟨s.widx.toNat / 4, by omega⟩ else 0x00#8)
        else s.ekmem[4 * (s.widx.toNat - 1) + k])) ∧
      (s.widx.toNat < 43 → engineStep s = .next { s with ekmem := ek, widx := s.widx + 1#6 }) ∧
      (s.widx.toNat = 43 → engineStep s = .next { s with ekmem := ek, widx := 0#6, eklen := 176#8, busy := false })

/-- R96: the BC engine step does the work of round key `r = RND`, for `r` in 0 to 10; it advances the counter, and with
`r = 10` writes `OUTBUF` and completes the command. -/
def Obligations.BcEngineStepAddsOneRoundKey : Prop :=
  ∀ s : State, s.op = .bc →
    (s.rnd = 0#4 → engineStep s = .next { s with st := addRoundKey s.st s.ekmem 0, rnd := 1#4 }) ∧
    (∀ h : 1 ≤ s.rnd.toNat ∧ s.rnd.toNat ≤ 9, engineStep s = .next { s with
      st := addRoundKey (mixColumns (shiftRows (subBytes s.st))) s.ekmem ⟨s.rnd.toNat, by omega⟩
      rnd := s.rnd + 1#4 }) ∧
    (s.rnd = 10#4 → engineStep s = .next { s with
      st := addRoundKey (shiftRows (subBytes s.st)) s.ekmem 10
      outbuf := addRoundKey (shiftRows (subBytes s.st)) s.ekmem 10
      rnd := 0#4
      busy := false })

/-- The values of the counters that never occur (R25, R26, I14): the running engine stops there by name. The model's choice:
log 8. -/
def Obligations.CountersThatNeverOccurStop : Prop :=
  ∀ s : State,
    (s.op = .ks → (s.widx.toNat < 4 ∨ 43 < s.widx.toNat) → engineStep s = .fault (.widxOutOfRange s.widx)) ∧
    (s.op = .bc → 10 < s.rnd.toNat → engineStep s = .fault (.rndOutOfRange s.rnd))

/-- R82, R96: the frame of the engine steps. KS changes no readable byte but the four of its word, and on its last step `EKLEN`
and `STATUS`; BC changes none before its last step, and then `OUTBUF` and `STATUS`. -/
def Obligations.EngineStepFrame : Prop :=
  ∀ s t : State, engineStep s = .next t →
    (s.op = .ks →
      (∀ a : Offset, ¬(0x100 + 4 * s.widx.toNat ≤ a.toNat ∧ a.toNat < 0x104 + 4 * s.widx.toNat) →
        (s.widx.toNat = 43 → a ≠ 0x001#9 ∧ a ≠ 0x006#9) → t.readByte a = s.readByte a) ∧
      t.st = s.st ∧ t.rnd = s.rnd) ∧
    (s.op = .bc →
      (∀ a : Offset, (s.rnd.toNat = 10 → a ≠ 0x001#9 ∧ ¬(0x030 ≤ a.toNat ∧ a.toNat ≤ 0x03F)) →
        t.readByte a = s.readByte a) ∧
      t.ekmem = s.ekmem ∧ t.widx = s.widx) ∧
    t.keybuf = s.keybuf ∧ t.klen = s.klen ∧ t.inbuf = s.inbuf ∧ t.blen = s.blen ∧ t.err = s.err ∧ t.op = s.op ∧
    t.host = s.host ∧ t.sched = s.sched ∧ t.replies = s.replies

/-- R83: from an idle state with `KLEN = 16`, EXPAND's acceptance and 40 KS engine steps reach the state in which `EKMEM` is
`ExpandKey(KEYBUF)`, `EKLEN = 176`, `ERR = 0x00` and all else is as before; between them the core is busy and serves no other
transaction. With another `KLEN`, the acceptance alone reaches the state with `ERR = 0x01`. The run is the one with no turn
settled, in which the engine comes first (the model's choice, log 3). -/
def Obligations.ExpandRunsToItsResult : Prop :=
  ∀ (s : State) (rest : List HostOp),
    s.busy = false → s.sched = [] → s.host = .write 0x000#9 0x01#8 :: rest →
    (s.klen = 16#8 →
      (∀ n : Nat, 1 ≤ n → n ≤ 40 → ∃ t : State, Host.Core.run Sys2Proof.core n s = .next t ∧ t.busy = true ∧
        t.host = rest ∧ statusByte t = 0x01#8) ∧
      Host.Core.run Sys2Proof.core 41 s = .next { s with
        host := rest
        replies := s.replies ++ [.done]
        err := 0x00#8
        eklen := 176#8
        ekmem := expandKey s.keybuf
        widx := 0#6
        op := .ks }) ∧
    (s.klen ≠ 16#8 → Host.Core.run Sys2Proof.core 1 s = .next { s with
      host := rest, replies := s.replies ++ [.done], err := 0x01#8 })

/-- R97: from an idle state with `BLEN = 16` and `EKLEN = 176`, ENCRYPT's acceptance and 11 BC engine steps reach the state in
which `OUTBUF` and `ST` are `Cipher(INBUF, EKMEM)`, `ERR = 0x00` and all else is as before; between them the core is busy and
serves no other transaction. With a wrong length, the acceptance alone reaches a state in which only `ERR` has changed. The
run is the one with no turn settled, in which the engine comes first (the model's choice, log 3). -/
def Obligations.EncryptRunsToItsResult : Prop :=
  ∀ (s : State) (rest : List HostOp),
    s.busy = false → s.sched = [] → s.host = .write 0x000#9 0x02#8 :: rest →
    (s.blen = 16#8 → s.eklen = 176#8 →
      (∀ n : Nat, 1 ≤ n → n ≤ 11 → ∃ t : State, Host.Core.run Sys2Proof.core n s = .next t ∧ t.busy = true ∧
        t.host = rest ∧ statusByte t = 0x01#8) ∧
      Host.Core.run Sys2Proof.core 12 s = .next { s with
        host := rest
        replies := s.replies ++ [.done]
        err := 0x00#8
        outbuf := cipher s.inbuf s.ekmem
        st := cipher s.inbuf s.ekmem
        rnd := 0#4
        op := .bc }) ∧
    (s.blen ≠ 16#8 ∨ s.eklen ≠ 176#8 → ∃ e : Byte, (e = 0x02#8 ∨ e = 0x04#8 ∨ e = 0x06#8) ∧
      Host.Core.run Sys2Proof.core 1 s = .next { s with host := rest, replies := s.replies ++ [.done], err := e })

/-- R29: the result of a command is a function of its operands at the moment of acceptance and of nothing else: two idle cores
that agree on the operands report the same causes, and agree on the result when there is none. The runs
are those with no turn settled, in which the engine comes first (the model's choice, log 3). -/
def Obligations.ResultDependsOnOperandsOnly : Prop :=
  ∀ s1 s2 : State, s1.busy = false → s2.busy = false → s1.sched = [] → s2.sched = [] →
    (s1.host = [.write 0x000#9 0x01#8] → s2.host = [.write 0x000#9 0x01#8] → s1.keybuf = s2.keybuf → s1.klen = s2.klen →
      ∃ t1 t2 : State, Host.Core.run Sys2Proof.core 41 s1 = .next t1 ∧ Host.Core.run Sys2Proof.core 41 s2 = .next t2 ∧
        t1.err = t2.err ∧ (t1.err = 0x00#8 → t1.ekmem = t2.ekmem ∧ t1.eklen = t2.eklen)) ∧
    (s1.host = [.write 0x000#9 0x02#8] → s2.host = [.write 0x000#9 0x02#8] → s1.inbuf = s2.inbuf → s1.blen = s2.blen →
      s1.ekmem = s2.ekmem → s1.eklen = s2.eklen →
      ∃ t1 t2 : State, Host.Core.run Sys2Proof.core 12 s1 = .next t1 ∧ Host.Core.run Sys2Proof.core 12 s2 = .next t2 ∧
        t1.err = t2.err ∧ (t1.err = 0x00#8 → t1.outbuf = t2.outbuf))

/-! ### The host port -/

/-- R36: while `BUSY = 1` every transaction but a read of `STATUS` waits, without effect and without response; what moves is the
engine. -/
def Obligations.HeldTransactionWaits : Prop :=
  ∀ (s : State) (o : HostOp) (rest : List HostOp),
    s.busy = true → s.host = o :: rest → o ≠ .read 0x001#9 → o ≠ .poll → notResetNext s = true →
    step s = engineStep { s with sched := s.sched.tail } ∧
    ∀ t : State, step s = .next t → t.host = s.host ∧ t.replies = s.replies

/-- R17: a read of `STATUS` returns `zext_8(BUSY)` at once, busy or idle, and changes nothing else; a write of `STATUS` in an
idle state is a `BusError`. -/
def Obligations.StatusReadAnswersAtOnce : Prop :=
  ∀ (s : State) (rest : List HostOp) (ts : List Turn), s.sched = .host :: ts →
    (s.host = .read 0x001#9 :: rest → step s = .next { s with
      sched := ts, host := rest, replies := s.replies ++ [.data (if s.busy then 0x01#8 else 0x00#8)] }) ∧
    (∀ v : Byte, s.busy = false → s.host = .write 0x001#9 v :: rest → step s = .fault (.busErrorWrite 0x001#9 v))

/-- R58: `POLL` reads `STATUS` until the value read has bit 0 = 0: it stays at the head of the host's operations while
`BUSY = 1`, and completes when it reads 0x00. -/
def Obligations.PollReadsStatusUntilIdle : Prop :=
  ∀ (s : State) (rest : List HostOp) (ts : List Turn), s.sched = .host :: ts → s.host = .poll :: rest →
    (s.busy = true → step s = .next { s with sched := ts, replies := s.replies ++ [.data 0x01#8] }) ∧
    (s.busy = false → step s = .next { s with sched := ts, host := rest, replies := s.replies ++ [.data 0x00#8] })

/-- R35: what a host read of an idle core returns, location by location; it changes no state of the core. -/
def Obligations.HostReadReturnsTheByte : Prop :=
  ∀ (s : State) (a : Offset) (rest : List HostOp) (v : Byte),
    s.busy = false → s.host = .read a :: rest → notResetNext s = true →
    (a = 0x001#9 ∧ v = 0x00#8 ∨ a = 0x002#9 ∧ v = s.err ∨ a = 0x004#9 ∧ v = s.klen ∨ a = 0x005#9 ∧ v = s.blen ∨
      a = 0x006#9 ∧ v = s.eklen ∨
      (∃ (i : Nat) (h : i < 16), a.toNat = 0x010 + i ∧ v = s.keybuf[i]) ∨
      (∃ (i : Nat) (h : i < 16), a.toNat = 0x020 + i ∧ v = s.inbuf[i]) ∨
      (∃ (i : Nat) (h : i < 16), a.toNat = 0x030 + i ∧ v = s.outbuf[i]) ∨
      (∃ (i : Nat) (h : i < 176), a.toNat = 0x100 + i ∧ v = s.ekmem[i])) →
    step s = .next { s with sched := s.sched.tail, host := rest, replies := s.replies ++ [.data v] }

/-- R37: a write to a buffer byte or a length register of an idle core changes that location and nothing else. -/
def Obligations.HostWriteChangesOneLocation : Prop :=
  ∀ (s : State) (a : Offset) (v : Byte) (rest : List HostOp),
    s.busy = false → s.host = .write a v :: rest → notResetNext s = true →
    (0x004 ≤ a.toNat ∧ a.toNat ≤ 0x006) ∨ (0x010 ≤ a.toNat ∧ a.toNat ≤ 0x02F) ∨ (0x100 ≤ a.toNat ∧ a.toNat ≤ 0x1AF) →
    ∃ t : State, step s = .next t ∧ t.readByte a = some v ∧ (∀ b : Offset, b ≠ a → t.readByte b = s.readByte b) ∧
      t = { s with
        keybuf := t.keybuf, inbuf := t.inbuf, ekmem := t.ekmem, klen := t.klen, blen := t.blen, eklen := t.eklen
        sched := s.sched.tail, host := rest, replies := s.replies ++ [.done] }

/-- R38: the accesses that an idle core answers with `BusError` are a read of `CMD`; a write of `STATUS`, `ERR` or an `OUTBUF`
byte; any access to a reserved offset; and no others. -/
def Obligations.BusErrorExactlyWhereListed : Prop :=
  ∀ (s : State) (rest : List HostOp), s.busy = false → notResetNext s = true →
    (∀ a : Offset, s.host = .read a :: rest →
      (step s = .fault (.busErrorRead a) ↔
        a.toNat = 0x000 ∨ a.toNat = 0x003 ∨ (0x007 ≤ a.toNat ∧ a.toNat ≤ 0x00F) ∨
          (0x040 ≤ a.toNat ∧ a.toNat ≤ 0x0FF) ∨ 0x1B0 ≤ a.toNat)) ∧
    (∀ (a : Offset) (v : Byte), s.host = .write a v :: rest →
      (step s = .fault (.busErrorWrite a v) ↔
        a.toNat = 0x001 ∨ a.toNat = 0x002 ∨ a.toNat = 0x003 ∨ (0x007 ≤ a.toNat ∧ a.toNat ≤ 0x00F) ∨
          (0x030 ≤ a.toNat ∧ a.toNat ≤ 0x0FF) ∨ 0x1B0 ≤ a.toNat))

/-! ### Who writes what: rules about the whole machine -/

/-- R11: `KEYBUF` is written only by host writes at 0x010 to 0x01F, and by a reset; no command ever writes it. -/
def Obligations.KeybufIsWrittenOnlyByTheHost : Prop :=
  ∀ s t : State, step s = .next t →
    t.keybuf = s.keybuf ∨ (∃ (d : ResetDraw) (ts : List Turn), s.sched = .reset d :: ts ∧ t.keybuf = d.keybuf) ∨
    (s.busy = false ∧ ∃ (a : Offset) (v : Byte) (rest : List HostOp) (i : Fin 16),
      s.host = .write a v :: rest ∧ a.toNat = 0x010 + i.val ∧ t.keybuf = s.keybuf.set i.val v)

/-- R12: `INBUF` is written only by host writes at 0x020 to 0x02F, and by a reset; ENCRYPT copies it and never writes it. -/
def Obligations.InbufIsWrittenOnlyByTheHost : Prop :=
  ∀ s t : State, step s = .next t →
    t.inbuf = s.inbuf ∨ (∃ (d : ResetDraw) (ts : List Turn), s.sched = .reset d :: ts ∧ t.inbuf = d.inbuf) ∨
    (s.busy = false ∧ ∃ (a : Offset) (v : Byte) (rest : List HostOp) (i : Fin 16),
      s.host = .write a v :: rest ∧ a.toNat = 0x020 + i.val ∧ t.inbuf = s.inbuf.set i.val v)

/-- R13: `OUTBUF` is written only by the last BC engine step, all 16 bytes together, and by a reset. -/
def Obligations.OutbufIsWrittenOnlyByTheLastRound : Prop :=
  ∀ s t : State, step s = .next t →
    t.outbuf = s.outbuf ∨ (∃ (d : ResetDraw) (ts : List Turn), s.sched = .reset d :: ts ∧ t.outbuf = d.outbuf) ∨
    (s.busy = true ∧ s.op = .bc ∧ s.rnd = 10#4 ∧ t.busy = false ∧
      t.outbuf = addRoundKey (shiftRows (subBytes s.st)) s.ekmem 10)

/-- R14, R30: the writers of `EKMEM` are a well-formed EXPAND (bytes 0 to 15), the KS engine step (the four bytes of its word),
host writes at 0x100 to 0x1AF (one byte), and a reset. -/
def Obligations.EkmemHasFourWriters : Prop :=
  ∀ s t : State, step s = .next t →
    t.ekmem = s.ekmem ∨ (∃ (d : ResetDraw) (ts : List Turn), s.sched = .reset d :: ts ∧ t.ekmem = d.ekmem) ∨
    (s.busy = false ∧ s.klen = 16#8 ∧ (∃ rest : List HostOp, s.host = .write 0x000#9 0x01#8 :: rest) ∧
      ∀ (n : Nat) (h : n < 176), t.ekmem[n] = if h' : n < 16 then s.keybuf[n] else s.ekmem[n]) ∨
    (s.busy = true ∧ s.op = .ks ∧
      ∀ (n : Nat) (h : n < 176), n / 4 ≠ s.widx.toNat → t.ekmem[n] = s.ekmem[n]) ∨
    (s.busy = false ∧ ∃ (a : Offset) (v : Byte) (rest : List HostOp) (i : Fin 176),
      s.host = .write a v :: rest ∧ a.toNat = 0x100 + i.val ∧ t.ekmem = s.ekmem.set i.val v)

/-- R18: `ERR` is written only by an accepted write to `CMD`, and by a reset (to 0x00); reads, other writes and engine steps leave
it alone. -/
def Obligations.ErrIsWrittenOnlyByCommands : Prop :=
  ∀ s t : State, step s = .next t →
    t.err = s.err ∨ ((∃ (d : ResetDraw) (ts : List Turn), s.sched = .reset d :: ts) ∧ t.err = 0x00#8) ∨
    (s.busy = false ∧ ∃ (v : Byte) (rest : List HostOp), s.host = .write 0x000#9 v :: rest)

/-- R19, R20: `KLEN` and `BLEN` are written only by host writes at 0x004 and 0x005, and by a reset (to 0x00); no command writes
them. -/
def Obligations.KlenAndBlenAreWrittenOnlyByTheHost : Prop :=
  ∀ s t : State, step s = .next t →
    (t.klen = s.klen ∨ ((∃ (d : ResetDraw) (ts : List Turn), s.sched = .reset d :: ts) ∧ t.klen = 0x00#8) ∨
      (s.busy = false ∧ ∃ (v : Byte) (rest : List HostOp), s.host = .write 0x004#9 v :: rest ∧ t.klen = v)) ∧
    (t.blen = s.blen ∨ ((∃ (d : ResetDraw) (ts : List Turn), s.sched = .reset d :: ts) ∧ t.blen = 0x00#8) ∨
      (s.busy = false ∧ ∃ (v : Byte) (rest : List HostOp), s.host = .write 0x005#9 v :: rest ∧ t.blen = v))

/-- R21: `EKLEN` is written only by host writes at 0x006, by the last KS engine step, which sets it to 176, and by a reset (to
0x00). -/
def Obligations.EklenIsSetByTheLastKsStep : Prop :=
  ∀ s t : State, step s = .next t →
    t.eklen = s.eklen ∨ ((∃ (d : ResetDraw) (ts : List Turn), s.sched = .reset d :: ts) ∧ t.eklen = 0x00#8) ∨
    (s.busy = true ∧ s.op = .ks ∧ s.widx = 43#6 ∧ t.eklen = 176#8) ∨
    (s.busy = false ∧ ∃ (v : Byte) (rest : List HostOp), s.host = .write 0x006#9 v :: rest ∧ t.eklen = v)

/-- R23: `BUSY` is set only by a well-formed EXPAND or ENCRYPT at its acceptance, and cleared only by the last engine step of
the command and by a reset. -/
def Obligations.BusyIsSetOnlyByWellFormedCommands : Prop :=
  ∀ s t : State, step s = .next t →
    (s.busy = false → t.busy = true →
      ∃ rest : List HostOp, (s.host = .write 0x000#9 0x01#8 :: rest ∧ s.klen = 16#8 ∧ t.op = .ks ∧ t.widx = 4#6) ∨
        (s.host = .write 0x000#9 0x02#8 :: rest ∧ s.blen = 16#8 ∧ s.eklen = 176#8 ∧ t.op = .bc ∧ t.rnd = 0#4)) ∧
    (s.busy = true → t.busy = false →
      (∃ (d : ResetDraw) (ts : List Turn), s.sched = .reset d :: ts) ∨ (s.op = .ks ∧ s.widx = 43#6) ∨
      (s.op = .bc ∧ s.rnd = 10#4))

/-! ### Reset -/

/-- R126, R127: a reset in any state, also while a command runs, zeroes the control state and leaves every data byte as drawn;
what the host still has to do, a held transaction among it, is left to be served. -/
def Obligations.ResetEventInAnyState : Prop :=
  ∀ (s : State) (d : ResetDraw) (ts : List Turn), s.sched = .reset d :: ts →
    step s = .next
      { keybuf := d.keybuf, inbuf := d.inbuf, outbuf := d.outbuf, ekmem := d.ekmem, st := d.st, klen := 0x00#8,
        blen := 0x00#8, eklen := 0x00#8, err := 0x00#8, busy := false, op := .ks, rnd := 0#4, widx := 0#6, host := s.host,
        sched := ts, replies := s.replies }

/-- R28: the control state after reset. (The data bytes are free values, log 1; that nothing stands in `host`, `sched` and
`replies` is the model's choice, log 3, 4, 6, and is not part of this statement.) -/
def Obligations.ResetZeroesTheControlState : Prop :=
  State.reset.busy = false ∧ State.reset.op = .ks ∧ State.reset.rnd = 0#4 ∧ State.reset.widx = 0#6 ∧
  State.reset.err = 0x00#8 ∧ State.reset.klen = 0x00#8 ∧ State.reset.blen = 0x00#8 ∧ State.reset.eklen = 0x00#8

/-! ### Invariants and whole runs -/

/-- The state after reset has the invariant of the machine. -/
def Obligations.ResetHasTheInvariant : Prop := Inv State.reset

/-- R110, R22, R25, R26: every step keeps the control invariant: the legal values of `ERR`, the counters in their ranges and at
their idle values, and what the acceptance of the running command checked. -/
def Obligations.StepKeepsTheControlInvariant : Prop :=
  ∀ s t : State, ControlInv s → step s = .next t → ControlInv t

/-- R82, R96: every step keeps the whole invariant: what a running engine has produced so far is what `ExpandKey` and `Cipher`
say it is. -/
def Obligations.StepKeepsTheEngineInvariant : Prop :=
  ∀ s t : State, Inv s → step s = .next t → Inv t

/-- R36, R119, R135: a running command always completes, without error, in finitely many steps whatever `STATUS` reads come
between, as long as no reset comes; and what it leaves is the result of R83 or R97. The bound, the number of turns settled plus
40, rests on the engine coming first once no turn is settled, the form in which the model takes the fairness of R135 (the model's
choice, log 3). -/
def Obligations.RunningCommandAlwaysCompletes : Prop :=
  ∀ s : State, Inv s → s.busy = true → noReset s.sched = true →
    ∃ (n : Nat) (t : State), n ≤ s.sched.length + 40 ∧ Host.Core.run Sys2Proof.core n s = .next t ∧ t.busy = false ∧
      t.err = 0x00#8 ∧ t.keybuf = s.keybuf ∧ t.inbuf = s.inbuf ∧ t.klen = s.klen ∧ t.blen = s.blen ∧
      (s.op = .ks → t.ekmem = expandKey s.keybuf ∧ t.eklen = 176#8 ∧ t.outbuf = s.outbuf) ∧
      (s.op = .bc → t.outbuf = cipher s.inbuf s.ekmem ∧ t.ekmem = s.ekmem ∧ t.eklen = s.eklen)

/-- R134: which steps happen never depends on a byte of `KEYBUF`, `INBUF`, `OUTBUF`, `EKMEM` or `ST`: two machines that differ only
in data bytes run alike, step for step, in all their control state. -/
def Obligations.ControlNeverDependsOnData : Prop :=
  ∀ (n : Nat) (s t : State), SameControl s t →
    OutcomeRel SameControl (Host.Core.run Sys2Proof.core n s) (Host.Core.run Sys2Proof.core n t)

/-- R38, R119: a host that makes only accesses the map permits never goes wrong: no run from a state with the control invariant
faults or is refused. -/
def Obligations.PermittedHostNeverGoesWrong : Prop :=
  ∀ (n : Nat) (s : State), ControlInv s → s.host.all permitted = true → SafeFor n s
end

