-- ==== Sys2Proof/Laws/Operands.lean ====
section
/-! SUPPORT. What the windows and the writes of the byte sequences hold, byte by byte. -/

namespace Sys2Proof.Machine

@[simp] theorem blockWord_get (b : Block) (i : Fin 4) (k : Nat) (h : k < 4) :
    (blockWord b i)[k] = b[4 * i.val + k]'(by omega) := by
  simp [blockWord]

@[simp] theorem wordAt_get (ek : ExpandedKey) (i : Fin 44) (k : Nat) (h : k < 4) :
    (wordAt ek i)[k] = ek[4 * i.val + k]'(by omega) := by
  simp [wordAt]

@[simp] theorem roundKey_get (ek : ExpandedKey) (r : RoundIndex) (j : Nat) (h : j < 16) :
    (roundKey ek r)[j] = ek[16 * r.val + j]'(by omega) := by
  simp [roundKey]

theorem storeWord_get (ek : ExpandedKey) (i : Fin 44) (w : Word) (n : Nat) (h : n < 176) :
    (storeWord ek i w)[n] = if n / 4 = i.val then w[n % 4]'(by omega) else ek[n] := by
  simp [storeWord]

theorem storeWord_get_other (ek : ExpandedKey) (i : Fin 44) (w : Word) (n : Nat) (h : n < 176) (hn : n / 4 ≠ i.val) :
    (storeWord ek i w)[n] = ek[n] := by
  rw [storeWord_get, if_neg hn]

theorem storeWord_get_same (ek : ExpandedKey) (i : Fin 44) (w : Word) (k : Nat) (h : k < 4) :
    (storeWord ek i w)[4 * i.val + k]'(by omega) = w[k] := by
  have h1 : (4 * i.val + k) / 4 = i.val := by omega
  have h2 : (4 * i.val + k) % 4 = k := by omega
  rw [storeWord_get, if_pos h1]
  simp only [h2]

theorem storeKey_get (ek : ExpandedKey) (key : Block) (n : Nat) (h : n < 176) :
    (storeKey ek key)[n] = if h : n < 16 then key[n] else ek[n] := by
  simp [storeKey]

/-- The two offsets the port treats apart. -/
theorem locate_cmdOffset : locate cmdOffset = .cmd := by decide

theorem locate_statusOffset : locate statusOffset = .status := by decide

/-- Where a buffer byte is found. -/
theorem locate_keybuf {a : Offset} {i : Fin 16} (h : locate a = .keybuf i) : a.toNat = 0x010 + i.val := by
  unfold locate at h
  split_ifs at h
  all_goals simp at h
  rename_i hr; subst h; simp only; omega

theorem locate_inbuf {a : Offset} {i : Fin 16} (h : locate a = .inbuf i) : a.toNat = 0x020 + i.val := by
  unfold locate at h
  split_ifs at h
  all_goals simp at h
  rename_i hr; subst h; simp only; omega

theorem locate_outbuf {a : Offset} {i : Fin 16} (h : locate a = .outbuf i) : a.toNat = 0x030 + i.val := by
  unfold locate at h
  split_ifs at h
  all_goals simp at h
  rename_i hr; subst h; simp only; omega

theorem locate_ekmem {a : Offset} {i : Fin 176} (h : locate a = .ekmem i) : a.toNat = 0x100 + i.val := by
  unfold locate at h
  split_ifs at h
  all_goals simp at h
  rename_i hr; subst h; simp only; omega

/-- Where a control location is found. -/
theorem locate_control {a : Offset} :
    (locate a = .cmd → a = 0x000) ∧ (locate a = .status → a = 0x001) ∧ (locate a = .err → a = 0x002) ∧
    (locate a = .klen → a = 0x004) ∧ (locate a = .blen → a = 0x005) ∧ (locate a = .eklen → a = 0x006) := by
  unfold locate
  split_ifs <;> simp <;> apply BitVec.eq_of_toNat_eq <;> assumption

end Sys2Proof.Machine
end

