-- ==== Sys2Proof/Laws/State.lean ====
section
/-! SUPPORT. One lemma per field and per write of the state, each true by rfl, so that no proof unfolds a record update. -/

namespace Sys2Proof.Machine

variable (s : State)

/-! ### `setErr` -/

@[simp] theorem State.setErr_keybuf (e : Byte) : (s.setErr e).keybuf = s.keybuf := rfl
@[simp] theorem State.setErr_inbuf (e : Byte) : (s.setErr e).inbuf = s.inbuf := rfl
@[simp] theorem State.setErr_outbuf (e : Byte) : (s.setErr e).outbuf = s.outbuf := rfl
@[simp] theorem State.setErr_ekmem (e : Byte) : (s.setErr e).ekmem = s.ekmem := rfl
@[simp] theorem State.setErr_st (e : Byte) : (s.setErr e).st = s.st := rfl
@[simp] theorem State.setErr_klen (e : Byte) : (s.setErr e).klen = s.klen := rfl
@[simp] theorem State.setErr_blen (e : Byte) : (s.setErr e).blen = s.blen := rfl
@[simp] theorem State.setErr_eklen (e : Byte) : (s.setErr e).eklen = s.eklen := rfl
@[simp] theorem State.setErr_err (e : Byte) : (s.setErr e).err = e := rfl
@[simp] theorem State.setErr_busy (e : Byte) : (s.setErr e).busy = s.busy := rfl
@[simp] theorem State.setErr_op (e : Byte) : (s.setErr e).op = s.op := rfl
@[simp] theorem State.setErr_rnd (e : Byte) : (s.setErr e).rnd = s.rnd := rfl
@[simp] theorem State.setErr_widx (e : Byte) : (s.setErr e).widx = s.widx := rfl
@[simp] theorem State.setErr_host (e : Byte) : (s.setErr e).host = s.host := rfl
@[simp] theorem State.setErr_sched (e : Byte) : (s.setErr e).sched = s.sched := rfl
@[simp] theorem State.setErr_replies (e : Byte) : (s.setErr e).replies = s.replies := rfl

/-! ### `setKlen` -/

@[simp] theorem State.setKlen_keybuf (v : Byte) : (s.setKlen v).keybuf = s.keybuf := rfl
@[simp] theorem State.setKlen_inbuf (v : Byte) : (s.setKlen v).inbuf = s.inbuf := rfl
@[simp] theorem State.setKlen_outbuf (v : Byte) : (s.setKlen v).outbuf = s.outbuf := rfl
@[simp] theorem State.setKlen_ekmem (v : Byte) : (s.setKlen v).ekmem = s.ekmem := rfl
@[simp] theorem State.setKlen_st (v : Byte) : (s.setKlen v).st = s.st := rfl
@[simp] theorem State.setKlen_klen (v : Byte) : (s.setKlen v).klen = v := rfl
@[simp] theorem State.setKlen_blen (v : Byte) : (s.setKlen v).blen = s.blen := rfl
@[simp] theorem State.setKlen_eklen (v : Byte) : (s.setKlen v).eklen = s.eklen := rfl
@[simp] theorem State.setKlen_err (v : Byte) : (s.setKlen v).err = s.err := rfl
@[simp] theorem State.setKlen_busy (v : Byte) : (s.setKlen v).busy = s.busy := rfl
@[simp] theorem State.setKlen_op (v : Byte) : (s.setKlen v).op = s.op := rfl
@[simp] theorem State.setKlen_rnd (v : Byte) : (s.setKlen v).rnd = s.rnd := rfl
@[simp] theorem State.setKlen_widx (v : Byte) : (s.setKlen v).widx = s.widx := rfl
@[simp] theorem State.setKlen_host (v : Byte) : (s.setKlen v).host = s.host := rfl
@[simp] theorem State.setKlen_sched (v : Byte) : (s.setKlen v).sched = s.sched := rfl
@[simp] theorem State.setKlen_replies (v : Byte) : (s.setKlen v).replies = s.replies := rfl

/-! ### `setBlen` -/

@[simp] theorem State.setBlen_keybuf (v : Byte) : (s.setBlen v).keybuf = s.keybuf := rfl
@[simp] theorem State.setBlen_inbuf (v : Byte) : (s.setBlen v).inbuf = s.inbuf := rfl
@[simp] theorem State.setBlen_outbuf (v : Byte) : (s.setBlen v).outbuf = s.outbuf := rfl
@[simp] theorem State.setBlen_ekmem (v : Byte) : (s.setBlen v).ekmem = s.ekmem := rfl
@[simp] theorem State.setBlen_st (v : Byte) : (s.setBlen v).st = s.st := rfl
@[simp] theorem State.setBlen_klen (v : Byte) : (s.setBlen v).klen = s.klen := rfl
@[simp] theorem State.setBlen_blen (v : Byte) : (s.setBlen v).blen = v := rfl
@[simp] theorem State.setBlen_eklen (v : Byte) : (s.setBlen v).eklen = s.eklen := rfl
@[simp] theorem State.setBlen_err (v : Byte) : (s.setBlen v).err = s.err := rfl
@[simp] theorem State.setBlen_busy (v : Byte) : (s.setBlen v).busy = s.busy := rfl
@[simp] theorem State.setBlen_op (v : Byte) : (s.setBlen v).op = s.op := rfl
@[simp] theorem State.setBlen_rnd (v : Byte) : (s.setBlen v).rnd = s.rnd := rfl
@[simp] theorem State.setBlen_widx (v : Byte) : (s.setBlen v).widx = s.widx := rfl
@[simp] theorem State.setBlen_host (v : Byte) : (s.setBlen v).host = s.host := rfl
@[simp] theorem State.setBlen_sched (v : Byte) : (s.setBlen v).sched = s.sched := rfl
@[simp] theorem State.setBlen_replies (v : Byte) : (s.setBlen v).replies = s.replies := rfl

/-! ### `setEklen` -/

@[simp] theorem State.setEklen_keybuf (v : Byte) : (s.setEklen v).keybuf = s.keybuf := rfl
@[simp] theorem State.setEklen_inbuf (v : Byte) : (s.setEklen v).inbuf = s.inbuf := rfl
@[simp] theorem State.setEklen_outbuf (v : Byte) : (s.setEklen v).outbuf = s.outbuf := rfl
@[simp] theorem State.setEklen_ekmem (v : Byte) : (s.setEklen v).ekmem = s.ekmem := rfl
@[simp] theorem State.setEklen_st (v : Byte) : (s.setEklen v).st = s.st := rfl
@[simp] theorem State.setEklen_klen (v : Byte) : (s.setEklen v).klen = s.klen := rfl
@[simp] theorem State.setEklen_blen (v : Byte) : (s.setEklen v).blen = s.blen := rfl
@[simp] theorem State.setEklen_eklen (v : Byte) : (s.setEklen v).eklen = v := rfl
@[simp] theorem State.setEklen_err (v : Byte) : (s.setEklen v).err = s.err := rfl
@[simp] theorem State.setEklen_busy (v : Byte) : (s.setEklen v).busy = s.busy := rfl
@[simp] theorem State.setEklen_op (v : Byte) : (s.setEklen v).op = s.op := rfl
@[simp] theorem State.setEklen_rnd (v : Byte) : (s.setEklen v).rnd = s.rnd := rfl
@[simp] theorem State.setEklen_widx (v : Byte) : (s.setEklen v).widx = s.widx := rfl
@[simp] theorem State.setEklen_host (v : Byte) : (s.setEklen v).host = s.host := rfl
@[simp] theorem State.setEklen_sched (v : Byte) : (s.setEklen v).sched = s.sched := rfl
@[simp] theorem State.setEklen_replies (v : Byte) : (s.setEklen v).replies = s.replies := rfl

/-! ### `setKeybuf` -/

@[simp] theorem State.setKeybuf_keybuf (i : Fin 16) (v : Byte) : (s.setKeybuf i v).keybuf = s.keybuf.set i.val v := rfl
@[simp] theorem State.setKeybuf_inbuf (i : Fin 16) (v : Byte) : (s.setKeybuf i v).inbuf = s.inbuf := rfl
@[simp] theorem State.setKeybuf_outbuf (i : Fin 16) (v : Byte) : (s.setKeybuf i v).outbuf = s.outbuf := rfl
@[simp] theorem State.setKeybuf_ekmem (i : Fin 16) (v : Byte) : (s.setKeybuf i v).ekmem = s.ekmem := rfl
@[simp] theorem State.setKeybuf_st (i : Fin 16) (v : Byte) : (s.setKeybuf i v).st = s.st := rfl
@[simp] theorem State.setKeybuf_klen (i : Fin 16) (v : Byte) : (s.setKeybuf i v).klen = s.klen := rfl
@[simp] theorem State.setKeybuf_blen (i : Fin 16) (v : Byte) : (s.setKeybuf i v).blen = s.blen := rfl
@[simp] theorem State.setKeybuf_eklen (i : Fin 16) (v : Byte) : (s.setKeybuf i v).eklen = s.eklen := rfl
@[simp] theorem State.setKeybuf_err (i : Fin 16) (v : Byte) : (s.setKeybuf i v).err = s.err := rfl
@[simp] theorem State.setKeybuf_busy (i : Fin 16) (v : Byte) : (s.setKeybuf i v).busy = s.busy := rfl
@[simp] theorem State.setKeybuf_op (i : Fin 16) (v : Byte) : (s.setKeybuf i v).op = s.op := rfl
@[simp] theorem State.setKeybuf_rnd (i : Fin 16) (v : Byte) : (s.setKeybuf i v).rnd = s.rnd := rfl
@[simp] theorem State.setKeybuf_widx (i : Fin 16) (v : Byte) : (s.setKeybuf i v).widx = s.widx := rfl
@[simp] theorem State.setKeybuf_host (i : Fin 16) (v : Byte) : (s.setKeybuf i v).host = s.host := rfl
@[simp] theorem State.setKeybuf_sched (i : Fin 16) (v : Byte) : (s.setKeybuf i v).sched = s.sched := rfl
@[simp] theorem State.setKeybuf_replies (i : Fin 16) (v : Byte) : (s.setKeybuf i v).replies = s.replies := rfl

/-! ### `setInbuf` -/

@[simp] theorem State.setInbuf_keybuf (i : Fin 16) (v : Byte) : (s.setInbuf i v).keybuf = s.keybuf := rfl
@[simp] theorem State.setInbuf_inbuf (i : Fin 16) (v : Byte) : (s.setInbuf i v).inbuf = s.inbuf.set i.val v := rfl
@[simp] theorem State.setInbuf_outbuf (i : Fin 16) (v : Byte) : (s.setInbuf i v).outbuf = s.outbuf := rfl
@[simp] theorem State.setInbuf_ekmem (i : Fin 16) (v : Byte) : (s.setInbuf i v).ekmem = s.ekmem := rfl
@[simp] theorem State.setInbuf_st (i : Fin 16) (v : Byte) : (s.setInbuf i v).st = s.st := rfl
@[simp] theorem State.setInbuf_klen (i : Fin 16) (v : Byte) : (s.setInbuf i v).klen = s.klen := rfl
@[simp] theorem State.setInbuf_blen (i : Fin 16) (v : Byte) : (s.setInbuf i v).blen = s.blen := rfl
@[simp] theorem State.setInbuf_eklen (i : Fin 16) (v : Byte) : (s.setInbuf i v).eklen = s.eklen := rfl
@[simp] theorem State.setInbuf_err (i : Fin 16) (v : Byte) : (s.setInbuf i v).err = s.err := rfl
@[simp] theorem State.setInbuf_busy (i : Fin 16) (v : Byte) : (s.setInbuf i v).busy = s.busy := rfl
@[simp] theorem State.setInbuf_op (i : Fin 16) (v : Byte) : (s.setInbuf i v).op = s.op := rfl
@[simp] theorem State.setInbuf_rnd (i : Fin 16) (v : Byte) : (s.setInbuf i v).rnd = s.rnd := rfl
@[simp] theorem State.setInbuf_widx (i : Fin 16) (v : Byte) : (s.setInbuf i v).widx = s.widx := rfl
@[simp] theorem State.setInbuf_host (i : Fin 16) (v : Byte) : (s.setInbuf i v).host = s.host := rfl
@[simp] theorem State.setInbuf_sched (i : Fin 16) (v : Byte) : (s.setInbuf i v).sched = s.sched := rfl
@[simp] theorem State.setInbuf_replies (i : Fin 16) (v : Byte) : (s.setInbuf i v).replies = s.replies := rfl

/-! ### `setEkmem` -/

@[simp] theorem State.setEkmem_keybuf (i : Fin 176) (v : Byte) : (s.setEkmem i v).keybuf = s.keybuf := rfl
@[simp] theorem State.setEkmem_inbuf (i : Fin 176) (v : Byte) : (s.setEkmem i v).inbuf = s.inbuf := rfl
@[simp] theorem State.setEkmem_outbuf (i : Fin 176) (v : Byte) : (s.setEkmem i v).outbuf = s.outbuf := rfl
@[simp] theorem State.setEkmem_ekmem (i : Fin 176) (v : Byte) : (s.setEkmem i v).ekmem = s.ekmem.set i.val v := rfl
@[simp] theorem State.setEkmem_st (i : Fin 176) (v : Byte) : (s.setEkmem i v).st = s.st := rfl
@[simp] theorem State.setEkmem_klen (i : Fin 176) (v : Byte) : (s.setEkmem i v).klen = s.klen := rfl
@[simp] theorem State.setEkmem_blen (i : Fin 176) (v : Byte) : (s.setEkmem i v).blen = s.blen := rfl
@[simp] theorem State.setEkmem_eklen (i : Fin 176) (v : Byte) : (s.setEkmem i v).eklen = s.eklen := rfl
@[simp] theorem State.setEkmem_err (i : Fin 176) (v : Byte) : (s.setEkmem i v).err = s.err := rfl
@[simp] theorem State.setEkmem_busy (i : Fin 176) (v : Byte) : (s.setEkmem i v).busy = s.busy := rfl
@[simp] theorem State.setEkmem_op (i : Fin 176) (v : Byte) : (s.setEkmem i v).op = s.op := rfl
@[simp] theorem State.setEkmem_rnd (i : Fin 176) (v : Byte) : (s.setEkmem i v).rnd = s.rnd := rfl
@[simp] theorem State.setEkmem_widx (i : Fin 176) (v : Byte) : (s.setEkmem i v).widx = s.widx := rfl
@[simp] theorem State.setEkmem_host (i : Fin 176) (v : Byte) : (s.setEkmem i v).host = s.host := rfl
@[simp] theorem State.setEkmem_sched (i : Fin 176) (v : Byte) : (s.setEkmem i v).sched = s.sched := rfl
@[simp] theorem State.setEkmem_replies (i : Fin 176) (v : Byte) : (s.setEkmem i v).replies = s.replies := rfl

/-! ### `startExpand` -/

@[simp] theorem State.startExpand_keybuf : s.startExpand.keybuf = s.keybuf := by dsimp only [State.startExpand]
@[simp] theorem State.startExpand_inbuf : s.startExpand.inbuf = s.inbuf := by dsimp only [State.startExpand]
@[simp] theorem State.startExpand_outbuf : s.startExpand.outbuf = s.outbuf := by dsimp only [State.startExpand]
@[simp] theorem State.startExpand_ekmem : s.startExpand.ekmem = storeKey s.ekmem s.keybuf := by dsimp only [State.startExpand]
@[simp] theorem State.startExpand_st : s.startExpand.st = s.st := by dsimp only [State.startExpand]
@[simp] theorem State.startExpand_klen : s.startExpand.klen = s.klen := by dsimp only [State.startExpand]
@[simp] theorem State.startExpand_blen : s.startExpand.blen = s.blen := by dsimp only [State.startExpand]
@[simp] theorem State.startExpand_eklen : s.startExpand.eklen = s.eklen := by dsimp only [State.startExpand]
@[simp] theorem State.startExpand_err : s.startExpand.err = s.err := by dsimp only [State.startExpand]
@[simp] theorem State.startExpand_busy : s.startExpand.busy = true := by dsimp only [State.startExpand]
@[simp] theorem State.startExpand_op : s.startExpand.op = .ks := by dsimp only [State.startExpand]
@[simp] theorem State.startExpand_rnd : s.startExpand.rnd = s.rnd := by dsimp only [State.startExpand]
@[simp] theorem State.startExpand_widx : s.startExpand.widx = 4#6 := by dsimp only [State.startExpand]
@[simp] theorem State.startExpand_host : s.startExpand.host = s.host := by dsimp only [State.startExpand]
@[simp] theorem State.startExpand_sched : s.startExpand.sched = s.sched := by dsimp only [State.startExpand]
@[simp] theorem State.startExpand_replies : s.startExpand.replies = s.replies := by dsimp only [State.startExpand]

/-! ### `ksNext` -/

@[simp] theorem State.ksNext_keybuf (i : Fin 44) (w : Word) : (s.ksNext i w).keybuf = s.keybuf := by dsimp only [State.ksNext]
@[simp] theorem State.ksNext_inbuf (i : Fin 44) (w : Word) : (s.ksNext i w).inbuf = s.inbuf := by dsimp only [State.ksNext]
@[simp] theorem State.ksNext_outbuf (i : Fin 44) (w : Word) : (s.ksNext i w).outbuf = s.outbuf := by dsimp only [State.ksNext]
@[simp] theorem State.ksNext_ekmem (i : Fin 44) (w : Word) : (s.ksNext i w).ekmem = storeWord s.ekmem i w := by dsimp only [State.ksNext]
@[simp] theorem State.ksNext_st (i : Fin 44) (w : Word) : (s.ksNext i w).st = s.st := by dsimp only [State.ksNext]
@[simp] theorem State.ksNext_klen (i : Fin 44) (w : Word) : (s.ksNext i w).klen = s.klen := by dsimp only [State.ksNext]
@[simp] theorem State.ksNext_blen (i : Fin 44) (w : Word) : (s.ksNext i w).blen = s.blen := by dsimp only [State.ksNext]
@[simp] theorem State.ksNext_eklen (i : Fin 44) (w : Word) : (s.ksNext i w).eklen = s.eklen := by dsimp only [State.ksNext]
@[simp] theorem State.ksNext_err (i : Fin 44) (w : Word) : (s.ksNext i w).err = s.err := by dsimp only [State.ksNext]
@[simp] theorem State.ksNext_busy (i : Fin 44) (w : Word) : (s.ksNext i w).busy = s.busy := by dsimp only [State.ksNext]
@[simp] theorem State.ksNext_op (i : Fin 44) (w : Word) : (s.ksNext i w).op = s.op := by dsimp only [State.ksNext]
@[simp] theorem State.ksNext_rnd (i : Fin 44) (w : Word) : (s.ksNext i w).rnd = s.rnd := by dsimp only [State.ksNext]
@[simp] theorem State.ksNext_widx (i : Fin 44) (w : Word) : (s.ksNext i w).widx = s.widx + 1#6 := by dsimp only [State.ksNext]
@[simp] theorem State.ksNext_host (i : Fin 44) (w : Word) : (s.ksNext i w).host = s.host := by dsimp only [State.ksNext]
@[simp] theorem State.ksNext_sched (i : Fin 44) (w : Word) : (s.ksNext i w).sched = s.sched := by dsimp only [State.ksNext]
@[simp] theorem State.ksNext_replies (i : Fin 44) (w : Word) : (s.ksNext i w).replies = s.replies := by dsimp only [State.ksNext]

/-! ### `ksLast` -/

@[simp] theorem State.ksLast_keybuf (i : Fin 44) (w : Word) : (s.ksLast i w).keybuf = s.keybuf := by dsimp only [State.ksLast]
@[simp] theorem State.ksLast_inbuf (i : Fin 44) (w : Word) : (s.ksLast i w).inbuf = s.inbuf := by dsimp only [State.ksLast]
@[simp] theorem State.ksLast_outbuf (i : Fin 44) (w : Word) : (s.ksLast i w).outbuf = s.outbuf := by dsimp only [State.ksLast]
@[simp] theorem State.ksLast_ekmem (i : Fin 44) (w : Word) : (s.ksLast i w).ekmem = storeWord s.ekmem i w := by dsimp only [State.ksLast]
@[simp] theorem State.ksLast_st (i : Fin 44) (w : Word) : (s.ksLast i w).st = s.st := by dsimp only [State.ksLast]
@[simp] theorem State.ksLast_klen (i : Fin 44) (w : Word) : (s.ksLast i w).klen = s.klen := by dsimp only [State.ksLast]
@[simp] theorem State.ksLast_blen (i : Fin 44) (w : Word) : (s.ksLast i w).blen = s.blen := by dsimp only [State.ksLast]
@[simp] theorem State.ksLast_eklen (i : Fin 44) (w : Word) : (s.ksLast i w).eklen = expandedKeyLength := by dsimp only [State.ksLast]
@[simp] theorem State.ksLast_err (i : Fin 44) (w : Word) : (s.ksLast i w).err = s.err := by dsimp only [State.ksLast]
@[simp] theorem State.ksLast_busy (i : Fin 44) (w : Word) : (s.ksLast i w).busy = false := by dsimp only [State.ksLast]
@[simp] theorem State.ksLast_op (i : Fin 44) (w : Word) : (s.ksLast i w).op = s.op := by dsimp only [State.ksLast]
@[simp] theorem State.ksLast_rnd (i : Fin 44) (w : Word) : (s.ksLast i w).rnd = s.rnd := by dsimp only [State.ksLast]
@[simp] theorem State.ksLast_widx (i : Fin 44) (w : Word) : (s.ksLast i w).widx = 0#6 := by dsimp only [State.ksLast]
@[simp] theorem State.ksLast_host (i : Fin 44) (w : Word) : (s.ksLast i w).host = s.host := by dsimp only [State.ksLast]
@[simp] theorem State.ksLast_sched (i : Fin 44) (w : Word) : (s.ksLast i w).sched = s.sched := by dsimp only [State.ksLast]
@[simp] theorem State.ksLast_replies (i : Fin 44) (w : Word) : (s.ksLast i w).replies = s.replies := by dsimp only [State.ksLast]

/-! ### `startEncrypt` -/

@[simp] theorem State.startEncrypt_keybuf : s.startEncrypt.keybuf = s.keybuf := rfl
@[simp] theorem State.startEncrypt_inbuf : s.startEncrypt.inbuf = s.inbuf := rfl
@[simp] theorem State.startEncrypt_outbuf : s.startEncrypt.outbuf = s.outbuf := rfl
@[simp] theorem State.startEncrypt_ekmem : s.startEncrypt.ekmem = s.ekmem := rfl
@[simp] theorem State.startEncrypt_st : s.startEncrypt.st = s.inbuf := rfl
@[simp] theorem State.startEncrypt_klen : s.startEncrypt.klen = s.klen := rfl
@[simp] theorem State.startEncrypt_blen : s.startEncrypt.blen = s.blen := rfl
@[simp] theorem State.startEncrypt_eklen : s.startEncrypt.eklen = s.eklen := rfl
@[simp] theorem State.startEncrypt_err : s.startEncrypt.err = s.err := rfl
@[simp] theorem State.startEncrypt_busy : s.startEncrypt.busy = true := rfl
@[simp] theorem State.startEncrypt_op : s.startEncrypt.op = .bc := rfl
@[simp] theorem State.startEncrypt_rnd : s.startEncrypt.rnd = 0#4 := rfl
@[simp] theorem State.startEncrypt_widx : s.startEncrypt.widx = s.widx := rfl
@[simp] theorem State.startEncrypt_host : s.startEncrypt.host = s.host := rfl
@[simp] theorem State.startEncrypt_sched : s.startEncrypt.sched = s.sched := rfl
@[simp] theorem State.startEncrypt_replies : s.startEncrypt.replies = s.replies := rfl

/-! ### `bcNext` -/

@[simp] theorem State.bcNext_keybuf (b : Block) : (s.bcNext b).keybuf = s.keybuf := rfl
@[simp] theorem State.bcNext_inbuf (b : Block) : (s.bcNext b).inbuf = s.inbuf := rfl
@[simp] theorem State.bcNext_outbuf (b : Block) : (s.bcNext b).outbuf = s.outbuf := rfl
@[simp] theorem State.bcNext_ekmem (b : Block) : (s.bcNext b).ekmem = s.ekmem := rfl
@[simp] theorem State.bcNext_st (b : Block) : (s.bcNext b).st = b := rfl
@[simp] theorem State.bcNext_klen (b : Block) : (s.bcNext b).klen = s.klen := rfl
@[simp] theorem State.bcNext_blen (b : Block) : (s.bcNext b).blen = s.blen := rfl
@[simp] theorem State.bcNext_eklen (b : Block) : (s.bcNext b).eklen = s.eklen := rfl
@[simp] theorem State.bcNext_err (b : Block) : (s.bcNext b).err = s.err := rfl
@[simp] theorem State.bcNext_busy (b : Block) : (s.bcNext b).busy = s.busy := rfl
@[simp] theorem State.bcNext_op (b : Block) : (s.bcNext b).op = s.op := rfl
@[simp] theorem State.bcNext_rnd (b : Block) : (s.bcNext b).rnd = s.rnd + 1#4 := rfl
@[simp] theorem State.bcNext_widx (b : Block) : (s.bcNext b).widx = s.widx := rfl
@[simp] theorem State.bcNext_host (b : Block) : (s.bcNext b).host = s.host := rfl
@[simp] theorem State.bcNext_sched (b : Block) : (s.bcNext b).sched = s.sched := rfl
@[simp] theorem State.bcNext_replies (b : Block) : (s.bcNext b).replies = s.replies := rfl

/-! ### `bcLast` -/

@[simp] theorem State.bcLast_keybuf (b : Block) : (s.bcLast b).keybuf = s.keybuf := rfl
@[simp] theorem State.bcLast_inbuf (b : Block) : (s.bcLast b).inbuf = s.inbuf := rfl
@[simp] theorem State.bcLast_outbuf (b : Block) : (s.bcLast b).outbuf = b := rfl
@[simp] theorem State.bcLast_ekmem (b : Block) : (s.bcLast b).ekmem = s.ekmem := rfl
@[simp] theorem State.bcLast_st (b : Block) : (s.bcLast b).st = b := rfl
@[simp] theorem State.bcLast_klen (b : Block) : (s.bcLast b).klen = s.klen := rfl
@[simp] theorem State.bcLast_blen (b : Block) : (s.bcLast b).blen = s.blen := rfl
@[simp] theorem State.bcLast_eklen (b : Block) : (s.bcLast b).eklen = s.eklen := rfl
@[simp] theorem State.bcLast_err (b : Block) : (s.bcLast b).err = s.err := rfl
@[simp] theorem State.bcLast_busy (b : Block) : (s.bcLast b).busy = false := rfl
@[simp] theorem State.bcLast_op (b : Block) : (s.bcLast b).op = s.op := rfl
@[simp] theorem State.bcLast_rnd (b : Block) : (s.bcLast b).rnd = 0#4 := rfl
@[simp] theorem State.bcLast_widx (b : Block) : (s.bcLast b).widx = s.widx := rfl
@[simp] theorem State.bcLast_host (b : Block) : (s.bcLast b).host = s.host := rfl
@[simp] theorem State.bcLast_sched (b : Block) : (s.bcLast b).sched = s.sched := rfl
@[simp] theorem State.bcLast_replies (b : Block) : (s.bcLast b).replies = s.replies := rfl

/-! ### `takeReset` -/

@[simp] theorem State.takeReset_keybuf (d : ResetDraw) : (s.takeReset d).keybuf = d.keybuf := rfl
@[simp] theorem State.takeReset_inbuf (d : ResetDraw) : (s.takeReset d).inbuf = d.inbuf := rfl
@[simp] theorem State.takeReset_outbuf (d : ResetDraw) : (s.takeReset d).outbuf = d.outbuf := rfl
@[simp] theorem State.takeReset_ekmem (d : ResetDraw) : (s.takeReset d).ekmem = d.ekmem := rfl
@[simp] theorem State.takeReset_st (d : ResetDraw) : (s.takeReset d).st = d.st := rfl
@[simp] theorem State.takeReset_klen (d : ResetDraw) : (s.takeReset d).klen = 0x00#8 := rfl
@[simp] theorem State.takeReset_blen (d : ResetDraw) : (s.takeReset d).blen = 0x00#8 := rfl
@[simp] theorem State.takeReset_eklen (d : ResetDraw) : (s.takeReset d).eklen = 0x00#8 := rfl
@[simp] theorem State.takeReset_err (d : ResetDraw) : (s.takeReset d).err = 0x00#8 := rfl
@[simp] theorem State.takeReset_busy (d : ResetDraw) : (s.takeReset d).busy = false := rfl
@[simp] theorem State.takeReset_op (d : ResetDraw) : (s.takeReset d).op = .ks := rfl
@[simp] theorem State.takeReset_rnd (d : ResetDraw) : (s.takeReset d).rnd = 0#4 := rfl
@[simp] theorem State.takeReset_widx (d : ResetDraw) : (s.takeReset d).widx = 0#6 := rfl
@[simp] theorem State.takeReset_host (d : ResetDraw) : (s.takeReset d).host = s.host := rfl
@[simp] theorem State.takeReset_sched (d : ResetDraw) : (s.takeReset d).sched = s.sched := rfl
@[simp] theorem State.takeReset_replies (d : ResetDraw) : (s.takeReset d).replies = s.replies := rfl

/-! ### `dropTurn` -/

@[simp] theorem State.dropTurn_keybuf : s.dropTurn.keybuf = s.keybuf := rfl
@[simp] theorem State.dropTurn_inbuf : s.dropTurn.inbuf = s.inbuf := rfl
@[simp] theorem State.dropTurn_outbuf : s.dropTurn.outbuf = s.outbuf := rfl
@[simp] theorem State.dropTurn_ekmem : s.dropTurn.ekmem = s.ekmem := rfl
@[simp] theorem State.dropTurn_st : s.dropTurn.st = s.st := rfl
@[simp] theorem State.dropTurn_klen : s.dropTurn.klen = s.klen := rfl
@[simp] theorem State.dropTurn_blen : s.dropTurn.blen = s.blen := rfl
@[simp] theorem State.dropTurn_eklen : s.dropTurn.eklen = s.eklen := rfl
@[simp] theorem State.dropTurn_err : s.dropTurn.err = s.err := rfl
@[simp] theorem State.dropTurn_busy : s.dropTurn.busy = s.busy := rfl
@[simp] theorem State.dropTurn_op : s.dropTurn.op = s.op := rfl
@[simp] theorem State.dropTurn_rnd : s.dropTurn.rnd = s.rnd := rfl
@[simp] theorem State.dropTurn_widx : s.dropTurn.widx = s.widx := rfl
@[simp] theorem State.dropTurn_host : s.dropTurn.host = s.host := rfl
@[simp] theorem State.dropTurn_sched : s.dropTurn.sched = s.sched.tail := rfl
@[simp] theorem State.dropTurn_replies : s.dropTurn.replies = s.replies := rfl

/-! ### `dropHost` -/

@[simp] theorem State.dropHost_keybuf : s.dropHost.keybuf = s.keybuf := rfl
@[simp] theorem State.dropHost_inbuf : s.dropHost.inbuf = s.inbuf := rfl
@[simp] theorem State.dropHost_outbuf : s.dropHost.outbuf = s.outbuf := rfl
@[simp] theorem State.dropHost_ekmem : s.dropHost.ekmem = s.ekmem := rfl
@[simp] theorem State.dropHost_st : s.dropHost.st = s.st := rfl
@[simp] theorem State.dropHost_klen : s.dropHost.klen = s.klen := rfl
@[simp] theorem State.dropHost_blen : s.dropHost.blen = s.blen := rfl
@[simp] theorem State.dropHost_eklen : s.dropHost.eklen = s.eklen := rfl
@[simp] theorem State.dropHost_err : s.dropHost.err = s.err := rfl
@[simp] theorem State.dropHost_busy : s.dropHost.busy = s.busy := rfl
@[simp] theorem State.dropHost_op : s.dropHost.op = s.op := rfl
@[simp] theorem State.dropHost_rnd : s.dropHost.rnd = s.rnd := rfl
@[simp] theorem State.dropHost_widx : s.dropHost.widx = s.widx := rfl
@[simp] theorem State.dropHost_host : s.dropHost.host = s.host.tail := rfl
@[simp] theorem State.dropHost_sched : s.dropHost.sched = s.sched := rfl
@[simp] theorem State.dropHost_replies : s.dropHost.replies = s.replies := rfl

/-! ### `reply` -/

@[simp] theorem State.reply_keybuf (r : Reply) : (s.reply r).keybuf = s.keybuf := rfl
@[simp] theorem State.reply_inbuf (r : Reply) : (s.reply r).inbuf = s.inbuf := rfl
@[simp] theorem State.reply_outbuf (r : Reply) : (s.reply r).outbuf = s.outbuf := rfl
@[simp] theorem State.reply_ekmem (r : Reply) : (s.reply r).ekmem = s.ekmem := rfl
@[simp] theorem State.reply_st (r : Reply) : (s.reply r).st = s.st := rfl
@[simp] theorem State.reply_klen (r : Reply) : (s.reply r).klen = s.klen := rfl
@[simp] theorem State.reply_blen (r : Reply) : (s.reply r).blen = s.blen := rfl
@[simp] theorem State.reply_eklen (r : Reply) : (s.reply r).eklen = s.eklen := rfl
@[simp] theorem State.reply_err (r : Reply) : (s.reply r).err = s.err := rfl
@[simp] theorem State.reply_busy (r : Reply) : (s.reply r).busy = s.busy := rfl
@[simp] theorem State.reply_op (r : Reply) : (s.reply r).op = s.op := rfl
@[simp] theorem State.reply_rnd (r : Reply) : (s.reply r).rnd = s.rnd := rfl
@[simp] theorem State.reply_widx (r : Reply) : (s.reply r).widx = s.widx := rfl
@[simp] theorem State.reply_host (r : Reply) : (s.reply r).host = s.host := rfl
@[simp] theorem State.reply_sched (r : Reply) : (s.reply r).sched = s.sched := rfl
@[simp] theorem State.reply_replies (r : Reply) : (s.reply r).replies = s.replies ++ [r] := rfl

end Sys2Proof.Machine
end

