-- ==== Sys2Proof/Laws/Ops.lean ====
section
/-! SUPPORT. What the shared operations can do: host access to a byte, the readable window, the acceptance of a command. -/

namespace Sys2Proof.Machine

/-! ### Host access -/

/-- Everything a storing host write can do: it is a write of one length register or one byte of a writable buffer. -/
theorem storeByte_some {s t : State} {a : Offset} {v : Byte} (h : s.storeByte a v = some t) :
    (locate a = .klen ∧ t = s.setKlen v) ∨ (locate a = .blen ∧ t = s.setBlen v) ∨
    (locate a = .eklen ∧ t = s.setEklen v) ∨ (∃ i, locate a = .keybuf i ∧ t = s.setKeybuf i v) ∨
    (∃ i, locate a = .inbuf i ∧ t = s.setInbuf i v) ∨ (∃ i, locate a = .ekmem i ∧ t = s.setEkmem i v) := by
  unfold State.storeByte at h
  split at h <;> simp_all

/-- A storing host write makes no command run, and leaves the sequencing state, `ERR`, `OUTBUF` and `ST` alone (R37). -/
theorem storeByte_frame {s t : State} {a : Offset} {v : Byte} (h : s.storeByte a v = some t) :
    t.busy = s.busy ∧ t.op = s.op ∧ t.rnd = s.rnd ∧ t.widx = s.widx ∧ t.err = s.err ∧ t.outbuf = s.outbuf ∧
    t.st = s.st ∧ t.host = s.host ∧ t.sched = s.sched ∧ t.replies = s.replies := by
  rcases storeByte_some h with ⟨-, rfl⟩ | ⟨-, rfl⟩ | ⟨-, rfl⟩ | ⟨i, -, rfl⟩ | ⟨i, -, rfl⟩ | ⟨i, -, rfl⟩ <;> simp

/-- What a read returns depends on nothing but the registers the map shows. -/
theorem readByte_congr {s t : State} (a : Offset) (hb : t.busy = s.busy) (he : t.err = s.err) (h1 : t.klen = s.klen)
    (h2 : t.blen = s.blen) (h3 : t.eklen = s.eklen) (h4 : t.keybuf = s.keybuf) (h5 : t.inbuf = s.inbuf)
    (h6 : t.outbuf = s.outbuf) (h7 : t.ekmem = s.ekmem) : t.readByte a = s.readByte a := by
  unfold State.readByte statusByte
  simp only [hb, he, h1, h2, h3, h4, h5, h6, h7]

/-! ### The readable window -/

/-- Every state's window is in canonical form, so every operation keeps it. -/
theorem image_wf (s : State) : Memory.wf s.image = true := by
  have hm : ∀ x ∈ s.image, x.1 < 0x200 := by
    intro x hx
    simp only [State.image, List.mem_filterMap, List.mem_range] at hx
    obtain ⟨n, hn, hx⟩ := hx
    cases hr : s.readByte (BitVec.ofNat 9 n) <;> simp [hr] at hx
    subst hx; exact hn
  have hp : s.image.Pairwise fun x y => x.1 < y.1 := by
    refine List.Pairwise.filterMap _ ?_ (List.pairwise_lt_range (n := 0x200))
    intro n m hnm x hx y hy
    cases hr : s.readByte (BitVec.ofNat 9 n) <;> simp [hr] at hx
    cases hq : s.readByte (BitVec.ofNat 9 m) <;> simp [hq] at hy
    subst hx; subst hy; exact hnm
  simp only [Memory.wf, hp, decide_true, Bool.true_and, List.all_eq_true, decide_eq_true_eq]
  exact hm

/-- The window lists an offset exactly when a host read returns a byte there, and lists that byte. -/
theorem mem_image (s : State) (n : Nat) (v : Byte) :
    (n, v) ∈ s.image ↔ n < 0x200 ∧ s.readByte (BitVec.ofNat 9 n) = some v := by
  simp only [State.image, List.mem_filterMap, List.mem_range]
  constructor
  · rintro ⟨m, hm, hx⟩
    cases hr : s.readByte (BitVec.ofNat 9 m) <;> simp [hr] at hx
    obtain ⟨rfl, rfl⟩ := hx
    exact ⟨hm, hr⟩
  · rintro ⟨hn, hr⟩
    exact ⟨n, hn, by simp [hr]⟩

/-! ### Acceptance -/

/-- Everything the acceptance of a command can do; it never stops. -/
theorem acceptCommand_cases (s : State) (e : Byte) (start : State → State) :
    (s.busy = true ∧ acceptCommand s e start = .next s) ∨
    (s.busy = false ∧ e = 0x00#8 ∧ acceptCommand s e start = .next (start (s.setErr 0x00#8))) ∨
    (s.busy = false ∧ e ≠ 0x00#8 ∧ acceptCommand s e start = .next (s.setErr e)) := by
  unfold acceptCommand
  by_cases hb : s.busy = true
  · exact .inl ⟨hb, by simp [hb]⟩
  · by_cases he : e = 0x00#8
    · exact .inr (.inl ⟨by simpa using hb, he, by rw [if_neg hb, if_pos he, he]⟩)
    · exact .inr (.inr ⟨by simpa using hb, he, by rw [if_neg hb, if_neg he]⟩)

/-- A reserved code, issued to an idle core, sets `ERR` and does nothing else. -/
theorem acceptReserved_idle {s : State} (h : s.busy = false) : acceptReserved s = .next (s.setErr errBadcmd) := by
  simp [acceptReserved, acceptCommand, h, errBadcmd]

/-- The causes of an EXPAND, value by value. -/
theorem expandErrors_eq (s : State) : expandErrors s = if s.klen = 16#8 then 0x00#8 else 0x01#8 := by
  unfold expandErrors raiseIf keyLength errKeylen
  by_cases h : s.klen = 16#8
  · simp [h]
  · simp [h]

/-- The causes of an ENCRYPT, value by value. -/
theorem encryptErrors_eq (s : State) :
    encryptErrors s = (if s.blen = 16#8 then 0x00#8 else 0x02#8) ||| (if s.eklen = 176#8 then 0x00#8 else 0x04#8) := by
  unfold encryptErrors raiseIf blockLength expandedKeyLength errBlklen errEklen
  rcases Decidable.em (s.blen = 16#8) with h | h <;> rcases Decidable.em (s.eklen = 176#8) with h' | h' <;>
    simp only [h, h', bne_self_eq_false, bne_iff_ne, ne_eq, not_false_eq_true, if_true, if_false,
      Bool.false_eq_true] <;> decide

end Sys2Proof.Machine
end

