-- ==== Sys2Proof/Laws/Engine.lean ====
section
/-! SUPPORT. What an engine step and a command can do: one inversion lemma each. -/

namespace Sys2Proof.Machine

/-- Everything a KS engine step can do. -/
theorem ksStep_next {s t : State} (h : ksStep s = .next t) :
    ∃ hi : 4 ≤ s.widx.toNat ∧ s.widx.toNat ≤ 43,
      (s.widx.toNat < 43 ∧ t = s.ksNext ⟨s.widx.toNat, by omega⟩ (ksWord s ⟨s.widx.toNat, hi⟩)) ∨
      (s.widx.toNat = 43 ∧ t = s.ksLast ⟨s.widx.toNat, by omega⟩ (ksWord s ⟨s.widx.toNat, hi⟩)) := by
  unfold ksStep at h
  split at h
  · rename_i hi
    refine ⟨hi, ?_⟩
    split at h
    · rename_i hl; injection h with h; exact .inl ⟨hl, h.symm⟩
    · rename_i hl; injection h with h; exact .inr ⟨by omega, h.symm⟩
  · cases h

/-- Everything a BC engine step can do. -/
theorem bcStep_next {s t : State} (h : bcStep s = .next t) :
    (s.rnd.toNat = 0 ∧ t = s.bcNext (addRoundKey s.st s.ekmem 0)) ∨
    (∃ hr : 1 ≤ s.rnd.toNat ∧ s.rnd.toNat ≤ 9, t = s.bcNext (standardRound s.ekmem ⟨s.rnd.toNat, by omega⟩ s.st)) ∨
    (s.rnd.toNat = 10 ∧ t = s.bcLast (finalRound s.ekmem s.st)) := by
  unfold bcStep at h
  split_ifs at h with h0 h9 h10
  · injection h with h; exact .inl ⟨h0, h.symm⟩
  · injection h with h; exact .inr (.inl ⟨⟨by omega, h9⟩, h.symm⟩)
  · injection h with h; exact .inr (.inr ⟨h10, h.symm⟩)

/-- A command never stops: it holds, starts, or fails with its causes. -/
theorem exec_cases (i : Instr) (s : State) :
    (s.busy = true ∧ exec i s = .next s) ∨
    (s.busy = false ∧ i = .expand ∧ expandErrors s = 0x00#8 ∧ exec i s = .next ((s.setErr 0x00#8).startExpand)) ∨
    (s.busy = false ∧ i = .expand ∧ expandErrors s ≠ 0x00#8 ∧ exec i s = .next (s.setErr (expandErrors s))) ∨
    (s.busy = false ∧ i = .encrypt ∧ encryptErrors s = 0x00#8 ∧ exec i s = .next ((s.setErr 0x00#8).startEncrypt)) ∨
    (s.busy = false ∧ i = .encrypt ∧ encryptErrors s ≠ 0x00#8 ∧ exec i s = .next (s.setErr (encryptErrors s))) := by
  cases i with
  | expand =>
    rcases acceptCommand_cases s (expandErrors s) State.startExpand with h | ⟨hb, he, h⟩ | ⟨hb, he, h⟩
    · exact .inl h
    · exact .inr (.inl ⟨hb, rfl, he, h⟩)
    · exact .inr (.inr (.inl ⟨hb, rfl, he, h⟩))
  | encrypt =>
    rcases acceptCommand_cases s (encryptErrors s) State.startEncrypt with h | ⟨hb, he, h⟩ | ⟨hb, he, h⟩
    · exact .inl h
    · exact .inr (.inr (.inr (.inl ⟨hb, rfl, he, h⟩)))
    · exact .inr (.inr (.inr (.inr ⟨hb, rfl, he, h⟩)))

end Sys2Proof.Machine
end

