-- ==== Sys2Proof/Laws/Functions.lean ====
section
/-! SUPPORT. What the functions of KS and BC hold, byte by byte: one lemma per function. -/

namespace Sys2Proof.Machine

/-- The next word of a key schedule, byte by byte (R80). -/
theorem nextWord_get (i : WordIndex) (prev back : Word) (k : Nat) (hk : k < 4) :
    (nextWord i prev back)[k] = back[k] ^^^
      (if i.val % 4 = 0 then
        sbox (prev[(k + 1) % 4]'(by omega)) ^^^
          (if k = 0 then rcon ⟨i.val / 4, by have := i.property; omega⟩ else 0x00#8)
      else prev[k]) := by
  unfold nextWord scheduleTemp wordXor
  split_ifs <;> interval_cases k <;> simp_all [gadd, subWord, rotWord]

/-- The first four words are the key. -/
theorem keyWord_first (key : Block) (i : Fin 44) (h : i.val < 4) : keyWord key i = blockWord key ⟨i.val, h⟩ := by
  simp [keyWord, h]

/-- Every other word is the newest one of its window. -/
theorem keyWord_later (key : Block) (i : Fin 44) (h : 4 ≤ i.val) :
    keyWord key i = (keyWindow key (i.val - 3) (by omega))[3] := by
  simp [keyWord, show ¬i.val < 4 by omega]

/-- A window holds four words that follow each other. -/
theorem keyWindow_get (key : Block) (n k : Nat) (h : n ≤ 40) (hk : k < 4) :
    (keyWindow key n h)[k] = keyWord key ⟨n + k, by omega⟩ := by
  induction n generalizing k with
  | zero =>
    rw [keyWord_first _ _ (by simpa using hk)]
    interval_cases k <;> simp [keyWindow]
  | succ n ih =>
    rcases Nat.lt_or_ge k 3 with h3 | h3
    · have := ih (k + 1) (by omega) (by omega)
      simp only [show n + (k + 1) = n + 1 + k by omega] at this
      rw [← this]
      interval_cases k <;> simp [keyWindow]
    · obtain rfl : k = 3 := by omega
      rw [keyWord_later _ _ (by simp)]
      simp only [show n + 1 + 3 - 3 = n + 1 by omega]

/-- The expanded key, word by word. -/
theorem expandKey_get (key : Block) (n : Nat) (h : n < 176) :
    (expandKey key)[n] = (keyWord key ⟨n / 4, by omega⟩)[n % 4]'(by omega) := by
  simp [expandKey]

theorem addRoundKey_get (b : Block) (ek : ExpandedKey) (r : RoundIndex) (j : Nat) (h : j < 16) :
    (addRoundKey b ek r)[j] = b[j] ^^^ ek[16 * r.val + j]'(by omega) := by
  simp [addRoundKey, gadd]

theorem subBytes_get (b : Block) (j : Nat) (h : j < 16) : (subBytes b)[j] = sbox b[j] := by
  simp [subBytes]

theorem shiftRows_get (b : Block) (j : Nat) (h : j < 16) :
    (shiftRows b)[j] = b[j % 4 + 4 * ((j / 4 + j % 4) % 4)]'(by omega) := by
  simp [shiftRows]

theorem mixColumns_get (b : Block) (j : Nat) (h : j < 16) :
    (mixColumns b)[j] = (mixColumn (blockWord b ⟨j / 4, by omega⟩))[j % 4]'(by omega) := by
  simp [mixColumns]

end Sys2Proof.Machine
end

