-- ==== Sys2Proof/Laws/PerInstr.lean ====
section
/-! SUPPORT. Statements made per command. Family `OneByteEncoding`: R50, every command is well-formed and is exactly one byte
long, and its code is not 0x00 (D5). -/

namespace Sys2Proof.Laws.OneByteEncoding

def Statement (i : Instr) : Prop :=
  i.wellFormed = true ∧ (encode i).length = 1 ∧ i.code ≠ 0x00#8

theorem expand : Statement .expand := by unfold Statement; decide

theorem encrypt : Statement .encrypt := by unfold Statement; decide

end Sys2Proof.Laws.OneByteEncoding
end

