-- ==== Sys2Proof/Laws/Step.lean ====
section
/-! SUPPORT. What one step of the machine can do: one inversion lemma for the port and one for the step. -/

namespace Sys2Proof.Machine

/-- The decoder, on the byte written to `CMD`. -/
theorem decodeCode_cases (v : Byte) :
    (v = 0x01#8 ∧ decodeCode v = some .expand) ∨ (v = 0x02#8 ∧ decodeCode v = some .encrypt) ∨
    (v ≠ 0x01#8 ∧ v ≠ 0x02#8 ∧ decodeCode v = none) := by
  revert v; decide

/-- With no turn settled, taking one changes nothing. -/
theorem dropTurn_nil {s : State} (h : s.sched = []) : s.dropTurn = s := by
  cases s; simp_all [State.dropTurn]

/-- Everything serving a host operation can do when it is not held: a read, a storing write, a command, a `STATUS` read of
`POLL`; the host then has its response. -/
theorem serve_next {s t : State} {o : HostOp} (h : serve s o = .next t) :
    (∃ a v, o = .read a ∧ s.readByte a = some v ∧ t = s.dropHost.reply (.data v)) ∨
    (∃ a v u, o = .write a v ∧ a ≠ cmdOffset ∧ s.storeByte a v = some u ∧ t = u.dropHost.reply .done) ∨
    (∃ v, o = .write cmdOffset v ∧ issueCommand (s.dropHost.reply .done) v = .next t) ∨
    (o = .poll ∧ s.busy = true ∧ t = s.reply (.data (statusByte s))) ∨
    (o = .poll ∧ s.busy = false ∧ t = s.dropHost.reply (.data (statusByte s))) := by
  cases o with
  | read a =>
    simp only [serve, serveRead] at h
    split at h
    · rename_i v hv; injection h with h; exact .inl ⟨a, v, rfl, hv, h.symm⟩
    · cases h
  | write a v =>
    simp only [serve, serveWrite] at h
    split at h
    · rename_i ha; subst ha; exact .inr (.inr (.inl ⟨v, rfl, h⟩))
    · rename_i ha
      split at h
      · rename_i u hu; injection h with h; exact .inr (.inl ⟨a, v, u, rfl, ha, hu, h.symm⟩)
      · cases h
  | poll =>
    simp only [serve, servePoll] at h
    split at h
    · rename_i hb; injection h with h; exact .inr (.inr (.inr (.inl ⟨rfl, hb, h.symm⟩)))
    · rename_i hb; injection h with h
      exact .inr (.inr (.inr (.inr ⟨rfl, by simpa using hb, h.symm⟩)))

/-- A turn of the host: the engine, if what the host asks for holds or it asks for nothing; else its operation is served; an
idle core with nothing asked of it stays as it is. -/
theorem hostTurn_eq (s : State) :
    (s.busy = true ∧ (∀ o rest, s.host = o :: rest → held s o = true) ∧ hostTurn s = engineStep s) ∨
    (∃ o rest, s.host = o :: rest ∧ held s o = false ∧ hostTurn s = serve s o) ∨
    (s.busy = false ∧ s.host = [] ∧ hostTurn s = .next s) := by
  unfold hostTurn
  cases hh : s.host with
  | nil =>
    by_cases hb : s.busy = true
    · exact .inl ⟨hb, by simp, by simp [hb]⟩
    · exact .inr (.inr ⟨by simpa using hb, rfl, by simp [hb]⟩)
  | cons o rest =>
    by_cases hd : held s o = true
    · have hb : s.busy = true := by
        cases o <;> simp_all [held]
      exact .inl ⟨hb, by rintro o' r' h; injection h with h1 h2; subst h1; exact hd, by simp [hd]⟩
    · exact .inr (.inl ⟨o, rest, rfl, by simpa using hd, by simp [hd]⟩)

/-- Everything a step does: the reset input acts, or, once the turn is taken, the running engine, or the host, or nobody. -/
theorem step_eq (s : State) :
    (∃ d ts, s.sched = .reset d :: ts ∧ step s = .next (s.dropTurn.takeReset d)) ∨
    (s.busy = true ∧ (∀ d ts, s.sched ≠ .reset d :: ts) ∧ step s = engineStep s.dropTurn) ∨
    (∃ o rest, s.host = o :: rest ∧ held s o = false ∧ (∀ d ts, s.sched ≠ .reset d :: ts) ∧
      step s = serve s.dropTurn o) ∨
    (s.busy = false ∧ s.host = [] ∧ (∀ d ts, s.sched ≠ .reset d :: ts) ∧ step s = .next s.dropTurn) := by
  have key : ∀ u : State, u = s.dropTurn → (∀ d ts, s.sched ≠ .reset d :: ts) →
      (step s = hostTurn u ∨ step s = engineTurn u) →
      (s.busy = true ∧ (∀ d ts, s.sched ≠ .reset d :: ts) ∧ step s = engineStep s.dropTurn) ∨
      (∃ o rest, s.host = o :: rest ∧ held s o = false ∧ (∀ d ts, s.sched ≠ .reset d :: ts) ∧
        step s = serve s.dropTurn o) ∨
      (s.busy = false ∧ s.host = [] ∧ (∀ d ts, s.sched ≠ .reset d :: ts) ∧ step s = .next s.dropTurn) := by
    intro u hu hr hs
    subst hu
    have hheld : ∀ o, held s.dropTurn o = held s o := by intro o; cases o <;> rfl
    have hcore : step s = hostTurn s.dropTurn →
        (s.busy = true ∧ (∀ d ts, s.sched ≠ .reset d :: ts) ∧ step s = engineStep s.dropTurn) ∨
        (∃ o rest, s.host = o :: rest ∧ held s o = false ∧ (∀ d ts, s.sched ≠ .reset d :: ts) ∧
          step s = serve s.dropTurn o) ∨
        (s.busy = false ∧ s.host = [] ∧ (∀ d ts, s.sched ≠ .reset d :: ts) ∧ step s = .next s.dropTurn) := by
      intro h
      rcases hostTurn_eq s.dropTurn with ⟨hb, -, he⟩ | ⟨o, rest, hh, hd, he⟩ | ⟨hb, hh, he⟩
      · exact .inl ⟨hb, hr, h.trans he⟩
      · exact .inr (.inl ⟨o, rest, hh, (hheld o) ▸ hd, hr, h.trans he⟩)
      · exact .inr (.inr ⟨hb, hh, hr, h.trans he⟩)
    rcases hs with hs | hs
    · exact hcore hs
    · unfold engineTurn at hs
      split at hs
      · rename_i hb; exact .inl ⟨hb, hr, hs⟩
      · exact hcore hs
  cases hsch : s.sched with
  | nil =>
    have hstep : step s = engineTurn s := by simp [step, takeTurn, hsch]
    rw [← hsch]
    exact .inr (key s (dropTurn_nil hsch).symm (by simp [hsch]) (.inr hstep))
  | cons t ts =>
    cases t with
    | host =>
      rw [← hsch]
      exact .inr (key s.dropTurn rfl (by simp [hsch]) (.inl (by simp [step, takeTurn, hsch])))
    | engine =>
      rw [← hsch]
      exact .inr (key s.dropTurn rfl (by simp [hsch]) (.inr (by simp [step, takeTurn, hsch])))
    | reset d => exact .inl ⟨d, ts, rfl, by simp [step, takeTurn, hsch]⟩

open Sys2Proof.Safety

/-- What `notResetNext` says. -/
theorem notResetNext_iff (s : State) : notResetNext s = true ↔ ∀ d ts, s.sched ≠ .reset d :: ts := by
  cases h : s.sched with
  | nil => simp [notResetNext, noReset, h]
  | cons t ts => cases t <;> simp [notResetNext, noReset, h]

/-- An idle core serves the host's next operation, whoever has the turn. -/
theorem step_idle {s : State} {o : HostOp} {rest : List HostOp} (hb : s.busy = false) (hh : s.host = o :: rest)
    (hn : notResetNext s = true) : step s = serve s.dropTurn o := by
  have hn' := (notResetNext_iff s).mp hn
  rcases step_eq s with ⟨d, ts, h, -⟩ | ⟨h, -⟩ | ⟨o', r', h, -, -, hs⟩ | ⟨-, h, -⟩
  · exact absurd h (hn' d ts)
  · simp [hb] at h
  · rw [hh] at h; injection h with h1 h2; rw [h1]; exact hs
  · simp [hh] at h

/-- A busy core whose host operation holds takes an engine step, whoever has the turn. -/
theorem step_held {s : State} {o : HostOp} {rest : List HostOp} (hh : s.host = o :: rest)
    (hd : held s o = true) (hn : notResetNext s = true) : step s = engineStep s.dropTurn := by
  have hn' := (notResetNext_iff s).mp hn
  rcases step_eq s with ⟨d, ts, h, -⟩ | ⟨-, -, h⟩ | ⟨o', r', h, h', -⟩ | ⟨-, h, -⟩
  · exact absurd h (hn' d ts)
  · exact h
  · rw [hh] at h; injection h with h1 h2; rw [← h1, hd] at h'; cases h'
  · simp [hh] at h

/-- Everything the running engine's step can do. -/
theorem engineStep_next {s t : State} (h : engineStep s = .next t) :
    (s.op = .ks ∧ ∃ hi : 4 ≤ s.widx.toNat ∧ s.widx.toNat ≤ 43,
      (s.widx.toNat < 43 ∧ t = s.ksNext ⟨s.widx.toNat, by omega⟩ (ksWord s ⟨s.widx.toNat, hi⟩)) ∨
      (s.widx.toNat = 43 ∧ t = s.ksLast ⟨s.widx.toNat, by omega⟩ (ksWord s ⟨s.widx.toNat, hi⟩))) ∨
    (s.op = .bc ∧ ((s.rnd.toNat = 0 ∧ t = s.bcNext (addRoundKey s.st s.ekmem 0)) ∨
    (∃ hr : 1 ≤ s.rnd.toNat ∧ s.rnd.toNat ≤ 9, t = s.bcNext (standardRound s.ekmem ⟨s.rnd.toNat, by omega⟩ s.st)) ∨
    (s.rnd.toNat = 10 ∧ t = s.bcLast (finalRound s.ekmem s.st)))) := by
  unfold engineStep at h
  cases ho : s.op <;> simp only [ho] at h
  · exact .inl ⟨rfl, ksStep_next h⟩
  · exact .inr ⟨rfl, bcStep_next h⟩

/-- Everything a write to `CMD` of an idle core can do: a well-formed command starts, or causes are reported. -/
theorem issueCommand_next {s t : State} {v : Byte} (hb : s.busy = false) (h : issueCommand s v = .next t) :
    (v = 0x01#8 ∧ s.klen = 16#8 ∧ t = (s.setErr 0x00#8).startExpand) ∨
    (v = 0x02#8 ∧ s.blen = 16#8 ∧ s.eklen = 176#8 ∧ t = (s.setErr 0x00#8).startEncrypt) ∨
    (∃ e, e ∈ errValues ∧ e ≠ 0x00#8 ∧ t = s.setErr e) := by
  unfold issueCommand at h
  rcases decodeCode_cases v with ⟨rfl, h1⟩ | ⟨rfl, h1⟩ | ⟨-, -, h1⟩ <;> simp only [h1] at h
  · rcases exec_cases .expand s with ⟨a, -⟩ | ⟨-, -, c, d⟩ | ⟨-, -, c, d⟩ | ⟨-, b, -⟩ | ⟨-, b, -⟩
    · simp [hb] at a
    · rw [h] at d; injection d with d
      left; refine ⟨rfl, ?_, d⟩
      rw [expandErrors_eq] at c; by_contra hc; simp [hc] at c
    · rw [h] at d; injection d with d
      right; right; refine ⟨_, ?_, c, d⟩
      rw [expandErrors_eq]; split <;> simp [errValues]
    · cases b
    · cases b
  · rcases exec_cases .encrypt s with ⟨a, -⟩ | ⟨-, b, -⟩ | ⟨-, b, -⟩ | ⟨-, -, c, d⟩ | ⟨-, -, c, d⟩
    · simp [hb] at a
    · cases b
    · cases b
    · rw [h] at d; injection d with d
      right; left; refine ⟨rfl, ?_⟩
      rw [encryptErrors_eq] at c; 
      by_cases h1 : s.blen = 16#8 <;> by_cases h2 : s.eklen = 176#8 <;> simp_all
    · rw [h] at d; injection d with d
      right; right; refine ⟨_, ?_, c, d⟩
      rw [encryptErrors_eq]
      by_cases h1 : s.blen = 16#8 <;> by_cases h2 : s.eklen = 176#8 <;> simp_all [errValues]
  · rw [acceptReserved_idle hb] at h; injection h with h
    right; right; exact ⟨errBadcmd, by decide, by decide, h.symm⟩

/-- Everything a step that answers a next state can do, by the agent that moves. -/
theorem step_next_agent {s t : State} (h : step s = .next t) :
    (∃ d ts, s.sched = .reset d :: ts ∧ t = s.dropTurn.takeReset d) ∨
    (s.busy = true ∧ engineStep s.dropTurn = .next t) ∨
    (∃ o rest, s.host = o :: rest ∧ held s o = false ∧ serve s.dropTurn o = .next t) ∨
    (s.busy = false ∧ s.host = [] ∧ t = s.dropTurn) := by
  rcases step_eq s with ⟨d, ts, h1, h2⟩ | ⟨h1, -, h2⟩ | ⟨o, rest, h1, h2, -, h3⟩ | ⟨h1, h2, -, h3⟩
  · left; exact ⟨d, ts, h1, by rw [h2] at h; injection h with h; exact h.symm⟩
  · right; left; exact ⟨h1, h2 ▸ h⟩
  · right; right; left; exact ⟨o, rest, h1, h2, h3 ▸ h⟩
  · right; right; right; exact ⟨h1, h2, by rw [h3] at h; injection h with h; exact h.symm⟩

/-- Everything a step that answers a next state can do: a reset, an engine step, a response to a read or a poll, a storing
write, a command, or nothing. -/
theorem step_next {s t : State} (h : step s = .next t) :
    (∃ d ts, s.sched = .reset d :: ts ∧ t = s.dropTurn.takeReset d) ∨
    (s.busy = true ∧ engineStep s.dropTurn = .next t) ∨
    (∃ o rest, s.host = o :: rest ∧ ((∃ r, t = s.dropTurn.dropHost.reply r) ∨ (∃ r, t = s.dropTurn.reply r))) ∨
    (s.busy = false ∧ ∃ a v rest u, s.host = .write a v :: rest ∧ s.dropTurn.storeByte a v = some u ∧ t = u.dropHost.reply .done) ∨
    (s.busy = false ∧ ∃ v rest, s.host = .write cmdOffset v :: rest ∧ issueCommand (s.dropTurn.dropHost.reply .done) v = .next t) ∨
    (s.busy = false ∧ s.host = [] ∧ t = s.dropTurn) := by
  rcases step_next_agent h with h | h | ⟨o, rest, h1, h2, h3⟩ | h
  · exact .inl h
  · exact .inr (.inl h)
  · rcases serve_next h3 with ⟨a, v, rfl, -, h⟩ | ⟨a, v, u, rfl, -, h4, h⟩ | ⟨v, rfl, h⟩ | ⟨rfl, hb, h⟩ | ⟨rfl, hb, h⟩
    · right; right; left; exact ⟨_, _, h1, .inl ⟨_, h⟩⟩
    · right; right; right; left; exact ⟨by simpa [held] using h2, _, _, _, _, h1, h4, h⟩
    · right; right; right; right; left; exact ⟨by simpa [held] using h2, _, _, h1, h⟩
    · right; right; left; exact ⟨_, _, h1, .inr ⟨_, h⟩⟩
    · right; right; left; exact ⟨_, _, h1, .inl ⟨_, h⟩⟩
  · right; right; right; right; right; exact h

end Sys2Proof.Machine
end

