-- ==== Sys2Proof/Tests/Slice0.lean ====
section
/-! SUPPORT. The model's own tests: well-formedness, decoding, single steps against the values that spec/ prints, and for every
statement with hypotheses a witness that meets them. -/

namespace Sys2Proof.Tests

open Sys2Proof.Machine Sys2Proof.Safety

/-- The state of an outcome. -/
def stateOf (o : Host.Outcome State Fault Refusal) : Option State :=
  match o with
  | .next s => some s
  | .fault _ => none
  | .refused _ => none

/-- One field of the state of an outcome. -/
def field {α : Type} (f : State → α) (o : Host.Outcome State Fault Refusal) : Option α := (stateOf o).map f

/-- The fault of an outcome. -/
def faultOf (o : Host.Outcome State Fault Refusal) : Option Fault :=
  match o with
  | .next _ => none
  | .fault f => some f
  | .refused _ => none

theorem eq_next_of_stateOf {o : Host.Outcome State Fault Refusal} {t : State} (h : stateOf o = some t) : o = .next t := by
  cases o <;> simp_all [stateOf]

/-- An idle core with every byte 0x00 and nothing to do. -/
def idle : State where
  keybuf := .replicate 16 0x00#8
  inbuf := .replicate 16 0x00#8
  outbuf := .replicate 16 0x00#8
  ekmem := .replicate 176 0x00#8
  st := .replicate 16 0x00#8
  klen := 0x00#8
  blen := 0x00#8
  eklen := 0x00#8
  err := 0x00#8
  busy := false
  op := .ks
  rnd := 0#4
  widx := 0#6
  host := []
  sched := []
  replies := []

/-- `idle` with one host operation to perform. -/
def asks (o : HostOp) : State := { idle with host := [o] }

/-- `idle` with the lengths a well-formed command needs. -/
def ready : State := { idle with klen := 0x10#8, blen := 0x10#8, eklen := 0xB0#8 }

/-- KS runs, at word `i`. -/
def runsKs (i : BitVec 6) : State := { ready with busy := true, op := .ks, widx := i }

/-- BC runs, at round key `r`. -/
def runsBc (r : BitVec 4) : State := { ready with busy := true, op := .bc, rnd := r }

/-- The block 00 01 02 ... 0f, the key of the first vector of HS §8. -/
def countingBlock : Block := .ofFn fun i => BitVec.ofNat 8 i.val

/-- A draw in which every byte is 0xFF. -/
def drawOnes : ResetDraw where
  keybuf := .replicate 16 0xFF#8
  inbuf := .replicate 16 0xFF#8
  outbuf := .replicate 16 0xFF#8
  ekmem := .replicate 176 0xFF#8
  st := .replicate 16 0xFF#8

/-! ### Well-formedness: one ill-formed statement per check (R56, R58) -/

theorem test_wf_wr_offset : (HostStmt.wr 0x200 0x00).wellFormed = false := by decide

theorem test_wf_wr_byte : (HostStmt.wr 0x000 0x100).wellFormed = false := by decide

theorem test_wf_rd_offset : (HostStmt.rd 0x200).wellFormed = false := by decide

theorem test_wf_put_range : (HostStmt.put 0x1FF [0x00, 0x00]).wellFormed = false := by decide

theorem test_wf_put_byte : (HostStmt.put 0x010 [0x00, 0x100]).wellFormed = false := by decide

theorem test_wf_get_range : (HostStmt.get 0x1FF 2).wellFormed = false := by decide

theorem test_wf_accepts :
    (HostStmt.wr 0x1FF 0xFF).wellFormed = true ∧ (HostStmt.rd 0x1FF).wellFormed = true ∧
    (HostStmt.put 0x1FE [0xFF, 0x00]).wellFormed = true ∧ (HostStmt.get 0x1FE 2).wellFormed = true ∧
    Instr.expand.wellFormed = true ∧ Instr.encrypt.wellFormed = true := by decide

/-! ### Decoding: words written out bit by bit from R51 and `opcode_table.json` -/

theorem test_decode_expand : decode [0b00000001#8] = .command .expand [] := by decide

theorem test_decode_encrypt : decode [0b00000010#8] = .command .encrypt [] := by decide

theorem test_decode_reserved :
    decode [0b00000000#8] = .reserved 0x00#8 [] ∧ decode [0b00000011#8] = .reserved 0x03#8 [] ∧
    decode [0b11111111#8] = .reserved 0xFF#8 [] ∧ decode [0b10000001#8] = .reserved 0x81#8 [] ∧ decode [] = .noByte := by
  decide

theorem test_decodeTableWord :
    decodeTableWord 8 0x01 = some .expand ∧ decodeTableWord 8 0x02 = some .encrypt ∧ decodeTableWord 8 0x00 = none ∧
    decodeTableWord 16 0x0201 = none ∧ decodeTableWord 0 0x01 = none := by decide

/-- The first step from reset with a command placed runs it: with `KLEN = 0` and `BLEN = EKLEN = 0` the causes are those of R81
and R95 (R126: the first ENCRYPT cannot succeed). -/
theorem test_withFetchWord_runs :
    field State.err (step (State.reset.withFetchWord 8 0x01)) = some 0x01#8 ∧
    field State.err (step (State.reset.withFetchWord 8 0x02)) = some 0x06#8 := by decide

/-! ### Functions, against printed examples -/

/-- R93: the example column; R64 and R63 through it. -/
theorem test_mixColumn : mixColumn #v[0xDB#8, 0x13#8, 0x53#8, 0x45#8] = #v[0x8E#8, 0x4D#8, 0xA1#8, 0xBC#8] := by decide

/-- R92: the example block. -/
theorem test_shiftRows : shiftRows countingBlock =
    #v[0x00#8, 0x05#8, 0x0A#8, 0x0F#8, 0x04#8, 0x09#8, 0x0E#8, 0x03#8,
      0x08#8, 0x0D#8, 0x02#8, 0x07#8, 0x0C#8, 0x01#8, 0x06#8, 0x0B#8] := by decide

/-- R67, R68: two entries that a swapped order of `affine` and `ginv`, or of row and column, would miss. -/
theorem test_sbox : sbox 0x53#8 = 0xED#8 ∧ sbox 0x9A#8 = 0xB8#8 := by decide +kernel

/-! ### Commands and engine steps -/

/-- R81's example: `KLEN = 0x0F` gives `ERR = 0x01`, `BUSY = 0`. -/
theorem test_expand_short_key :
    field (fun t => (t.err, t.busy)) (exec .expand { ready with klen := 0x0F#8 }) = some (0x01#8, false) := by decide

/-- R82's example: after acceptance with key 000102...0f the first step writes `EKMEM[16..20) = d6 aa 74 fd`. -/
theorem test_ks_first_word :
    field (fun t => (wordAt t.ekmem 4, t.widx))
      (engineStep { runsKs 4#6 with ekmem := storeKey (.replicate 176 0x00#8) countingBlock }) =
    some (#v[0xD6#8, 0xAA#8, 0x74#8, 0xFD#8], 5#6) := by decide +kernel

/-- R95's example: `BLEN = 0x10`, `EKLEN = 0xAF` gives `ERR = 0x04`, `BUSY = 0`. -/
theorem test_encrypt_short_expanded_key :
    field (fun t => (t.err, t.busy)) (exec .encrypt { ready with eklen := 0xAF#8 }) = some (0x04#8, false) := by decide

/-- R96's example, step `r = 1` of the first vector of HS §8; round key 1 is d6aa74fd d2af72fa daa678f1 d6ab76fe
(95_test_vectors.md section 1). -/
theorem test_bc_first_round :
    field State.st (engineStep { runsBc 1#4 with
      st := #v[0x00#8, 0x10#8, 0x20#8, 0x30#8, 0x40#8, 0x50#8, 0x60#8, 0x70#8,
        0x80#8, 0x90#8, 0xA0#8, 0xB0#8, 0xC0#8, 0xD0#8, 0xE0#8, 0xF0#8]
      ekmem := storeWord (storeWord (storeWord (storeWord (.replicate 176 0x00#8)
        4 #v[0xD6#8, 0xAA#8, 0x74#8, 0xFD#8]) 5 #v[0xD2#8, 0xAF#8, 0x72#8, 0xFA#8])
        6 #v[0xDA#8, 0xA6#8, 0x78#8, 0xF1#8]) 7 #v[0xD6#8, 0xAB#8, 0x76#8, 0xFE#8] }) =
    some #v[0x89#8, 0xD8#8, 0x10#8, 0xE8#8, 0x85#8, 0x5A#8, 0xCE#8, 0x68#8,
      0x2D#8, 0x18#8, 0x43#8, 0xD8#8, 0xCB#8, 0x12#8, 0x8F#8, 0xE4#8] := by decide +kernel

/-- R37, R38, 95_test_vectors.md section 11: the last `EKMEM` byte is at 0x1AF; one past it is reserved. -/
theorem test_last_ekmem_byte :
    field (fun t => (t.ekmem[175], t.eklen)) (step (asks (.write 0x1AF#9 0x5A#8))) = some (0x5A#8, 0x00#8) ∧
    faultOf (step (asks (.write 0x1B0#9 0x5A#8))) = some (.busErrorWrite 0x1B0#9 0x5A#8) := by decide

/-- R57, R58: the triples of `PUT KLEN, 10` and `EXPAND`. -/
theorem test_programOps :
    programOps [.put 0x004 [0x10], .expand, .poll, .get 0x002 1] =
    [.write 0x004#9 0x10#8, .write 0x000#9 0x01#8, .poll, .read 0x002#9] := by decide

/-- R31, R35: the readable window lists every readable byte: 4 control bytes, `STATUS`, three buffers and `EKMEM`. -/
theorem test_image_length : idle.image.length = 5 + 16 + 16 + 16 + 176 := by decide +kernel

/-! ### Witnesses: the hypotheses of each statement can be met -/

theorem witness_OpcodeMapDecodes : (0x00#8 ≠ 0x01#8 ∧ 0x00#8 ≠ 0x02#8) ∧ (0x03#8 ≠ 0x01#8 ∧ 0x03#8 ≠ 0x02#8) ∧
    (0xFF#8 ≠ 0x01#8 ∧ 0xFF#8 ≠ 0x02#8) := by decide

theorem witness_PutWritesItsBytesInOrder :
    (HostStmt.put 0x1FE [0xFF, 0x00]).wellFormed = true ∧ 1 < [0xFF, 0x00].length := by decide

theorem witness_XtimeIsLinearPermutation : xtime 0x8D#8 = 0x01#8 := by decide

/-- For the clauses about non-zero elements and inverses. -/
theorem witness_BytesFormAField : (0x02#8 : Byte) ≠ 0x00#8 ∧ gmul 0x02#8 0x8D#8 = 0x01#8 := by decide

theorem witness_GinvIsTheUniqueInverse : (0x01#8 : Byte) ≠ 0x00#8 ∧ (0xFF#8 : Byte) ≠ 0x00#8 := by decide

theorem witness_AffineBitwiseAndInvertible : 0 < 8 ∧ 7 < 8 := by decide

theorem witness_SboxPermutesWithoutFixedPoint : sbox 0x52#8 = 0x00#8 := by decide +kernel

theorem witness_RconDoublesFromOne : (2 ≤ 2 ∧ 2 ≤ 10) ∧ (2 ≤ 10 ∧ 10 ≤ 10) := by decide

theorem witness_ExpandKeyFollowsTheRecurrence :
    (0 < 16 ∧ 15 < 16) ∧ (4 ≤ 4 ∧ 4 ≤ 43) ∧ (4 ≤ 43 ∧ 43 ≤ 43) ∧ (0 < 4 ∧ 3 < 4) := by decide

theorem witness_ExpandKeyIsInjective : ∃ k1 k2 : Block, ∀ (n : Nat) (h : n < 16), (expandKey k1)[n] = (expandKey k2)[n] :=
  ⟨countingBlock, countingBlock, fun _ _ => rfl⟩

theorem witness_AddRoundKeyIsItsOwnInverse : 0 < 16 ∧ 15 < 16 := by decide

theorem witness_ShiftRowsIsThePrintedPermutation :
    (∀ (j : Nat) (h : j < 12), idle.inbuf[j + 4] = idle.inbuf[j]) ∧ 0 < 16 ∧ 15 < 16 := by
  refine ⟨?_, by decide⟩
  intro j h; simp [idle]

theorem witness_MixColumnsIsLinear :
    (∀ (j : Nat) (h : j < 16), idle.inbuf[j] = countingBlock[j] ^^^ countingBlock[j]) ∧ 0 < 4 ∧ 3 < 4 := by
  refine ⟨?_, by decide⟩
  intro j h; simp [idle]

theorem witness_CipherIsABijection : ∃ (ek : ExpandedKey) (q c : Block), cipher q ek = c :=
  ⟨idle.ekmem, countingBlock, _, rfl⟩

theorem witness_StepRunsTheDecodedCommand :
    ((asks (.write 0x000#9 0x01#8)).busy = false ∧ (asks (.write 0x000#9 0x01#8)).host = [.write 0x000#9 0x01#8] ∧
      notResetNext (asks (.write 0x000#9 0x01#8)) = true ∧ decode [0x01#8] = .command .expand [] ∧
      Instr.expand.wellFormed = true) ∧
    ((asks (.write 0x000#9 0x02#8)).busy = false ∧ (asks (.write 0x000#9 0x02#8)).host = [.write 0x000#9 0x02#8] ∧
      notResetNext (asks (.write 0x000#9 0x02#8)) = true ∧ decode [0x02#8] = .command .encrypt [] ∧
      Instr.encrypt.wellFormed = true) := by decide

theorem witness_ReservedCodeOnlySetsBadcmd :
    ∀ v ∈ [0x00#8, 0x03#8, 0xFF#8], (asks (.write 0x000#9 v)).busy = false ∧
      (asks (.write 0x000#9 v)).host = [.write 0x000#9 v] ∧ notResetNext (asks (.write 0x000#9 v)) = true ∧
      v ≠ 0x01#8 ∧ v ≠ 0x02#8 := by decide

theorem witness_ExpandAcceptance :
    (ready.busy = false ∧ ready.klen = 16#8) ∧
    ∀ v ∈ [0x00#8, 0x0F#8, 0x11#8, 0xFF#8], { ready with klen := v }.busy = false ∧ { ready with klen := v }.klen ≠ 16#8 := by
  decide

theorem witness_EncryptAcceptance :
    (ready.busy = false ∧ ready.blen = 16#8 ∧ ready.eklen = 176#8) ∧
    ({ ready with blen := 0x11#8 }.blen ≠ 16#8 ∧ { ready with blen := 0x11#8 }.eklen = 176#8) ∧
    ({ ready with eklen := 0xAF#8 }.blen = 16#8 ∧ { ready with eklen := 0xAF#8 }.eklen ≠ 176#8) ∧
    (idle.busy = false ∧ idle.blen ≠ 16#8 ∧ idle.eklen ≠ 176#8) := by decide

theorem witness_CommandWriteReportsItsCauses :
    ∀ v ∈ [0x00#8, 0x01#8, 0x02#8, 0x03#8, 0xFF#8], (asks (.write 0x000#9 v)).busy = false ∧
      (asks (.write 0x000#9 v)).host = [.write 0x000#9 v] ∧ notResetNext (asks (.write 0x000#9 v)) = true := by decide

theorem witness_FailedCommandChangesOnlyErr :
    ∃ t : State, step (asks (.write 0x000#9 0x01#8)) = .next t ∧ t.err ≠ 0x00#8 :=
  ⟨{ idle with err := 0x01#8, replies := [.done] }, eq_next_of_stateOf (by decide +kernel), by decide +kernel⟩

/-- Both outcomes of EXPAND, and the edges of the offsets outside what it stores. -/
theorem witness_ExpandFrame :
    (∃ t, exec .expand ready = .next t) ∧ (∃ t, exec .expand idle = .next t) ∧ idle.klen ≠ 16#8 ∧
    ∀ a ∈ [0x000#9, 0x003#9, 0x0FF#9, 0x110#9, 0x1AF#9], a ≠ 0x001#9 ∧ a ≠ 0x002#9 ∧
      ∀ k : Fin 16, (Location.ekmem ⟨k.val, by omega⟩).offset ≠ some a :=
  ⟨⟨_, eq_next_of_stateOf rfl⟩, ⟨_, eq_next_of_stateOf rfl⟩, by decide, by decide⟩

theorem witness_EncryptFrame :
    (∃ t, exec .encrypt ready = .next t) ∧ (∃ t, exec .encrypt idle = .next t) ∧
    (idle.blen ≠ 16#8 ∨ idle.eklen ≠ 176#8) ∧ ∀ a ∈ [0x000#9, 0x003#9, 0x1FF#9], a ≠ 0x001#9 ∧ a ≠ 0x002#9 :=
  ⟨⟨_, eq_next_of_stateOf rfl⟩, ⟨_, eq_next_of_stateOf rfl⟩, by decide, by decide⟩

theorem witness_KsEngineStepComputesOneWord :
    ∀ i ∈ [4#6, 42#6, 43#6], (4 ≤ (runsKs i).widx.toNat ∧ (runsKs i).widx.toNat ≤ 43) ∧ (runsKs i).op = .ks := by decide

theorem witness_BcEngineStepAddsOneRoundKey :
    ((runsBc 0#4).op = .bc ∧ (runsBc 0#4).rnd = 0#4) ∧
    (∀ r ∈ [1#4, 9#4], (runsBc r).op = .bc ∧ 1 ≤ (runsBc r).rnd.toNat ∧ (runsBc r).rnd.toNat ≤ 9) ∧
    ((runsBc 10#4).op = .bc ∧ (runsBc 10#4).rnd = 10#4) := by decide

theorem witness_CountersThatNeverOccurStop :
    (∀ i ∈ [0#6, 3#6, 44#6, 63#6], (runsKs i).op = .ks ∧ ((runsKs i).widx.toNat < 4 ∨ 43 < (runsKs i).widx.toNat)) ∧
    (∀ r ∈ [11#4, 15#4], (runsBc r).op = .bc ∧ 10 < (runsBc r).rnd.toNat) := by decide

/-- A first and a last step of each engine, and an offset each clause speaks of. -/
theorem witness_EngineStepFrame :
    (∃ t, engineStep (runsKs 4#6) = .next t) ∧ (∃ t, engineStep (runsKs 43#6) = .next t) ∧
    (∃ t, engineStep (runsBc 0#4) = .next t) ∧ (∃ t, engineStep (runsBc 10#4) = .next t) ∧
    (∀ a ∈ [0x10F#9, 0x114#9], ¬(0x100 + 4 * (runsKs 4#6).widx.toNat ≤ a.toNat ∧
      a.toNat < 0x104 + 4 * (runsKs 4#6).widx.toNat)) ∧
    (∀ a ∈ [0x02F#9, 0x040#9], a ≠ 0x001#9 ∧ ¬(0x030 ≤ a.toNat ∧ a.toNat ≤ 0x03F)) :=
  ⟨⟨_, eq_next_of_stateOf rfl⟩, ⟨_, eq_next_of_stateOf rfl⟩, ⟨_, eq_next_of_stateOf rfl⟩, ⟨_, eq_next_of_stateOf rfl⟩,
    by decide, by decide⟩

theorem witness_ExpandRunsToItsResult :
    ({ ready with host := [.write 0x000#9 0x01#8] }.busy = false ∧ { ready with host := [.write 0x000#9 0x01#8] }.sched = [] ∧
      { ready with host := [.write 0x000#9 0x01#8] }.host = [.write 0x000#9 0x01#8] ∧
      { ready with host := [.write 0x000#9 0x01#8] }.klen = 16#8 ∧ (1 ≤ 1 ∧ 1 ≤ 40) ∧ (1 ≤ 40 ∧ 40 ≤ 40)) ∧
    ((asks (.write 0x000#9 0x01#8)).busy = false ∧ (asks (.write 0x000#9 0x01#8)).sched = [] ∧
      (asks (.write 0x000#9 0x01#8)).host = [.write 0x000#9 0x01#8] ∧ (asks (.write 0x000#9 0x01#8)).klen ≠ 16#8) := by decide

theorem witness_EncryptRunsToItsResult :
    ({ ready with host := [.write 0x000#9 0x02#8] }.busy = false ∧ { ready with host := [.write 0x000#9 0x02#8] }.sched = [] ∧
      { ready with host := [.write 0x000#9 0x02#8] }.host = [.write 0x000#9 0x02#8] ∧
      { ready with host := [.write 0x000#9 0x02#8] }.blen = 16#8 ∧
      { ready with host := [.write 0x000#9 0x02#8] }.eklen = 176#8 ∧ (1 ≤ 1 ∧ 1 ≤ 11) ∧ (1 ≤ 11 ∧ 11 ≤ 11)) ∧
    ((asks (.write 0x000#9 0x02#8)).busy = false ∧ (asks (.write 0x000#9 0x02#8)).sched = [] ∧
      (asks (.write 0x000#9 0x02#8)).host = [.write 0x000#9 0x02#8] ∧
      ((asks (.write 0x000#9 0x02#8)).blen ≠ 16#8 ∨ (asks (.write 0x000#9 0x02#8)).eklen ≠ 176#8)) := by decide

/-- Two idle cores that agree on the operands and on little else. -/
theorem witness_ResultDependsOnOperandsOnly :
    let s1 := { ready with host := [.write 0x000#9 0x01#8] }
    let s2 := { ready with host := [.write 0x000#9 0x01#8], st := countingBlock, op := .bc, err := 0x08#8, blen := 0x00#8 }
    let u1 := { ready with host := [.write 0x000#9 0x02#8] }
    let u2 := { ready with host := [.write 0x000#9 0x02#8], st := countingBlock, klen := 0x00#8, keybuf := countingBlock }
    (s1.busy = false ∧ s2.busy = false ∧ s1.sched = [] ∧ s2.sched = [] ∧ s1.host = [.write 0x000#9 0x01#8] ∧
      s2.host = [.write 0x000#9 0x01#8] ∧ s1.keybuf = s2.keybuf ∧ s1.klen = s2.klen) ∧
    (u1.busy = false ∧ u2.busy = false ∧ u1.sched = [] ∧ u2.sched = [] ∧ u1.host = [.write 0x000#9 0x02#8] ∧
      u2.host = [.write 0x000#9 0x02#8] ∧ u1.inbuf = u2.inbuf ∧ u1.blen = u2.blen ∧ u1.ekmem = u2.ekmem ∧
      u1.eklen = u2.eklen) := by decide +kernel

theorem witness_HeldTransactionWaits :
    (∀ o ∈ [HostOp.read 0x000#9, .read 0x002#9, .read 0x1FF#9, .write 0x000#9 0x01#8, .write 0x001#9 0x00#8],
      { runsKs 4#6 with host := [o] }.busy = true ∧ { runsKs 4#6 with host := [o] }.host = [o] ∧ o ≠ .read 0x001#9 ∧
      o ≠ .poll ∧ notResetNext { runsKs 4#6 with host := [o] } = true) ∧
    ∃ t : State, step { runsKs 4#6 with host := [.read 0x002#9] } = .next t :=
  ⟨by decide, ⟨_, eq_next_of_stateOf rfl⟩⟩

theorem witness_StatusReadAnswersAtOnce :
    let s := { runsKs 4#6 with sched := [.host], host := [.read 0x001#9] }
    let t := { idle with sched := [.host], host := [.write 0x001#9 0xFF#8] }
    (s.sched = [.host] ∧ s.host = [.read 0x001#9]) ∧ (t.sched = [.host] ∧ t.busy = false ∧
      t.host = [.write 0x001#9 0xFF#8]) := by decide

theorem witness_PollReadsStatusUntilIdle :
    let s := { runsKs 4#6 with sched := [.host], host := [.poll] }
    let t := { idle with sched := [.host], host := [.poll] }
    (s.sched = [.host] ∧ s.host = [.poll] ∧ s.busy = true) ∧ (t.sched = [.host] ∧ t.host = [.poll] ∧ t.busy = false) := by
  decide

/-- The first and the last offset of each buffer. -/
theorem witness_HostReadReturnsTheByte :
    (∀ a : Offset, (asks (.read a)).busy = false ∧ (asks (.read a)).host = [.read a] ∧ notResetNext (asks (.read a)) = true) ∧
    (0x010#9).toNat = 0x010 + 0 ∧ (0x01F#9).toNat = 0x010 + 15 ∧ (0x020#9).toNat = 0x020 + 0 ∧ (0x02F#9).toNat = 0x020 + 15 ∧
    (0x030#9).toNat = 0x030 + 0 ∧ (0x03F#9).toNat = 0x030 + 15 ∧ (0x100#9).toNat = 0x100 + 0 ∧
    (0x1AF#9).toNat = 0x100 + 175 :=
  ⟨fun _ => ⟨rfl, rfl, rfl⟩, by decide⟩

theorem witness_HostWriteChangesOneLocation :
    ∀ a ∈ [0x004#9, 0x006#9, 0x010#9, 0x02F#9, 0x100#9, 0x1AF#9],
      (asks (.write a 0x5A#8)).busy = false ∧ (asks (.write a 0x5A#8)).host = [.write a 0x5A#8] ∧
      notResetNext (asks (.write a 0x5A#8)) = true ∧
      ((0x004 ≤ a.toNat ∧ a.toNat ≤ 0x006) ∨ (0x010 ≤ a.toNat ∧ a.toNat ≤ 0x02F) ∨ (0x100 ≤ a.toNat ∧ a.toNat ≤ 0x1AF)) := by
  decide

theorem witness_BusErrorExactlyWhereListed :
    ∀ a ∈ [0x000#9, 0x001#9, 0x003#9, 0x007#9, 0x00F#9, 0x030#9, 0x040#9, 0x0FF#9, 0x1B0#9, 0x1FF#9],
      ((asks (.read a)).busy = false ∧ notResetNext (asks (.read a)) = true ∧ (asks (.read a)).host = [.read a]) ∧
      ((asks (.write a 0#8)).busy = false ∧ notResetNext (asks (.write a 0#8)) = true ∧
        (asks (.write a 0#8)).host = [.write a 0#8]) := by decide

/-- A storing write of `KEYBUF[15]`, for the statements about who writes what. -/
theorem witness_KeybufIsWrittenOnlyByTheHost : ∃ t, step (asks (.write 0x01F#9 0x5A#8)) = .next t ∧ t.keybuf ≠ idle.keybuf :=
  ⟨{ idle with keybuf := idle.keybuf.set 15 0x5A#8, replies := [.done] }, eq_next_of_stateOf (by decide +kernel), by decide +kernel⟩

theorem witness_InbufIsWrittenOnlyByTheHost : ∃ t, step (asks (.write 0x02F#9 0x5A#8)) = .next t ∧ t.inbuf ≠ idle.inbuf :=
  ⟨{ idle with inbuf := idle.inbuf.set 15 0x5A#8, replies := [.done] }, eq_next_of_stateOf (by decide +kernel), by decide +kernel⟩

/-- The last BC engine step. -/
theorem witness_OutbufIsWrittenOnlyByTheLastRound : ∃ t, step (runsBc 10#4) = .next t ∧ t.busy = false :=
  ⟨_, eq_next_of_stateOf rfl, rfl⟩

/-- A reset, a command and a storing write. -/
theorem witness_EkmemHasFourWriters :
    (∃ t, step { idle with sched := [.reset drawOnes] } = .next t ∧ t.ekmem = drawOnes.ekmem) ∧
    (∃ t, step { ready with host := [.write 0x000#9 0x01#8] } = .next t ∧ t.busy = true) ∧
    (∃ t, step (asks (.write 0x1AF#9 0x5A#8)) = .next t) :=
  ⟨⟨_, eq_next_of_stateOf rfl, rfl⟩, ⟨_, eq_next_of_stateOf rfl, rfl⟩, ⟨_, eq_next_of_stateOf rfl⟩⟩

theorem witness_ErrIsWrittenOnlyByCommands : ∃ t, step (asks (.write 0x000#9 0x00#8)) = .next t ∧ t.err = 0x08#8 :=
  ⟨_, eq_next_of_stateOf rfl, by decide⟩

theorem witness_KlenAndBlenAreWrittenOnlyByTheHost :
    (∃ t, step (asks (.write 0x004#9 0x10#8)) = .next t ∧ t.klen = 0x10#8) ∧
    (∃ t, step (asks (.write 0x005#9 0x10#8)) = .next t ∧ t.blen = 0x10#8) :=
  ⟨⟨_, eq_next_of_stateOf rfl, by decide⟩, ⟨_, eq_next_of_stateOf rfl, by decide⟩⟩

theorem witness_EklenIsSetByTheLastKsStep :
    (∃ t, step { runsKs 43#6 with eklen := 0x00#8 } = .next t ∧ t.eklen = 0xB0#8) ∧
    (∃ t, step (asks (.write 0x006#9 0xAF#8)) = .next t ∧ t.eklen = 0xAF#8) :=
  ⟨⟨_, eq_next_of_stateOf rfl, rfl⟩, ⟨_, eq_next_of_stateOf rfl, by decide⟩⟩

/-- `BUSY` set by each command and cleared by the last step of each engine. -/
theorem witness_BusyIsSetOnlyByWellFormedCommands :
    (∃ t, step { ready with host := [.write 0x000#9 0x01#8] } = .next t ∧ t.busy = true) ∧
    (∃ t, step { ready with host := [.write 0x000#9 0x02#8] } = .next t ∧ t.busy = true) ∧
    (∃ t, step (runsKs 43#6) = .next t ∧ t.busy = false) ∧ (∃ t, step (runsBc 10#4) = .next t ∧ t.busy = false) :=
  ⟨⟨_, eq_next_of_stateOf rfl, rfl⟩, ⟨_, eq_next_of_stateOf rfl, rfl⟩, ⟨_, eq_next_of_stateOf rfl, rfl⟩,
    ⟨_, eq_next_of_stateOf rfl, rfl⟩⟩

theorem witness_ResetEventInAnyState : { runsKs 4#6 with sched := [.reset drawOnes] }.sched = [.reset drawOnes] := rfl

/-- A core in which KS has just begun on the zero key, and one in which BC has just begun, have the control invariant. -/
theorem witness_StepKeepsTheControlInvariant :
    (ControlInv (runsKs 4#6) ∧ ∃ t, step (runsKs 4#6) = .next t) ∧ (ControlInv (runsBc 0#4) ∧ ∃ t, step (runsBc 0#4) = .next t) ∧
    ControlInv idle :=
  ⟨⟨⟨by decide, by decide, by decide, by decide, by decide⟩, _, eq_next_of_stateOf rfl⟩,
    ⟨⟨by decide, by decide, by decide, by decide, by decide⟩, _, eq_next_of_stateOf rfl⟩,
    ⟨by decide, by decide, by decide, by decide, by decide⟩⟩

/-- The same two cores have the whole invariant: the first words are the key, the block state is the input block. -/
theorem witness_StepKeepsTheEngineInvariant :
    (Inv (runsKs 4#6) ∧ ∃ t, step (runsKs 4#6) = .next t) ∧ (Inv (runsBc 0#4) ∧ ∃ t, step (runsBc 0#4) = .next t) := by
  refine ⟨⟨⟨witness_StepKeepsTheControlInvariant.1.1, ?_, ?_⟩, witness_StepKeepsTheControlInvariant.1.2⟩,
    ⟨⟨witness_StepKeepsTheControlInvariant.2.1.1, ?_, ?_⟩, witness_StepKeepsTheControlInvariant.2.1.2⟩⟩
  · intro _ _ n h hn
    have h16 : n < 16 := hn
    rw [expandKey_get, keyWord_first _ _ (by simp only; omega), blockWord_get]
    simp [runsKs, ready, idle]
  · intro _ h; cases h
  · intro _ h; cases h
  · intro _ _; rfl

theorem witness_RunningCommandAlwaysCompletes :
    (Inv (runsKs 4#6) ∧ (runsKs 4#6).busy = true ∧ noReset (runsKs 4#6).sched = true ∧ (runsKs 4#6).op = .ks) ∧
    (Inv (runsBc 0#4) ∧ (runsBc 0#4).busy = true ∧ noReset (runsBc 0#4).sched = true ∧ (runsBc 0#4).op = .bc) :=
  ⟨⟨witness_StepKeepsTheEngineInvariant.1.1, by decide⟩, ⟨witness_StepKeepsTheEngineInvariant.2.1, by decide⟩⟩

/-- Two cores that differ in every data byte. -/
theorem witness_ControlNeverDependsOnData :
    SameControl ready { ready with
      keybuf := drawOnes.keybuf, inbuf := drawOnes.inbuf, outbuf := drawOnes.outbuf, ekmem := drawOnes.ekmem, st := drawOnes.st } :=
  ⟨rfl, rfl, rfl, rfl, rfl, rfl, rfl, rfl, rfl, rfl, rfl⟩

theorem witness_PermittedHostNeverGoesWrong :
    ControlInv idle ∧ ∀ o ∈ [HostOp.read 0x001#9, .read 0x1AF#9, .write 0x000#9 0xFF#8, .write 0x1AF#9 0x00#8, .poll],
      permitted o = true :=
  ⟨witness_StepKeepsTheControlInvariant.2.2, by decide⟩

end Sys2Proof.Tests
end

section
/-! SUPPORT. Every move the machine can make: one flat list of the outcomes of a step, each with its guard and its next
state. The rules about who writes a register are read off it. -/

namespace Sys2Proof.Machine

open Sys2Proof.Safety

/-- The moves of the machine: what a step that answers a next state from `s` can be (R135), with what must hold for it. -/
inductive Move (s : State) : State → Prop
  | reset (d : ResetDraw) (ts : List Turn) (hs : s.sched = .reset d :: ts) : Move s (s.dropTurn.takeReset d)
  | ksNext (i : Fin 44) (w : Word) (hb : s.busy = true) (ho : s.op = .ks) (hi : s.widx.toNat = i.val)
      (hr : 4 ≤ i.val ∧ i.val < 43) : Move s (s.dropTurn.ksNext i w)
  | ksLast (i : Fin 44) (w : Word) (hb : s.busy = true) (ho : s.op = .ks) (hi : s.widx.toNat = i.val)
      (hw : s.widx = 43#6) : Move s (s.dropTurn.ksLast i w)
  | bcNext (b : Block) (hb : s.busy = true) (ho : s.op = .bc) (hr : s.rnd.toNat ≤ 9) : Move s (s.dropTurn.bcNext b)
  | bcLast (hb : s.busy = true) (ho : s.op = .bc) (hr : s.rnd = 10#4) :
      Move s (s.dropTurn.bcLast (finalRound s.ekmem s.st))
  | respond (r : Reply) : Move s (s.dropTurn.dropHost.reply r)
  | pollAgain (r : Reply) : Move s (s.dropTurn.reply r)
  | writeKlen (v : Byte) (rest : List HostOp) (hb : s.busy = false) (hh : s.host = .write 0x004#9 v :: rest) :
      Move s ((s.dropTurn.setKlen v).dropHost.reply .done)
  | writeBlen (v : Byte) (rest : List HostOp) (hb : s.busy = false) (hh : s.host = .write 0x005#9 v :: rest) :
      Move s ((s.dropTurn.setBlen v).dropHost.reply .done)
  | writeEklen (v : Byte) (rest : List HostOp) (hb : s.busy = false) (hh : s.host = .write 0x006#9 v :: rest) :
      Move s ((s.dropTurn.setEklen v).dropHost.reply .done)
  | writeKeybuf (a : Offset) (v : Byte) (rest : List HostOp) (i : Fin 16) (hb : s.busy = false)
      (hh : s.host = .write a v :: rest) (ha : a.toNat = 0x010 + i.val) :
      Move s ((s.dropTurn.setKeybuf i v).dropHost.reply .done)
  | writeInbuf (a : Offset) (v : Byte) (rest : List HostOp) (i : Fin 16) (hb : s.busy = false)
      (hh : s.host = .write a v :: rest) (ha : a.toNat = 0x020 + i.val) :
      Move s ((s.dropTurn.setInbuf i v).dropHost.reply .done)
  | writeEkmem (a : Offset) (v : Byte) (rest : List HostOp) (i : Fin 176) (hb : s.busy = false)
      (hh : s.host = .write a v :: rest) (ha : a.toNat = 0x100 + i.val) :
      Move s ((s.dropTurn.setEkmem i v).dropHost.reply .done)
  | expand (rest : List HostOp) (hb : s.busy = false) (hh : s.host = .write 0x000#9 0x01#8 :: rest)
      (hk : s.klen = 16#8) : Move s ((s.dropTurn.dropHost.reply .done).setErr 0x00#8).startExpand
  | encrypt (rest : List HostOp) (hb : s.busy = false) (hh : s.host = .write 0x000#9 0x02#8 :: rest)
      (hl : s.blen = 16#8) (hk : s.eklen = 176#8) : Move s ((s.dropTurn.dropHost.reply .done).setErr 0x00#8).startEncrypt
  | fail (v e : Byte) (rest : List HostOp) (hb : s.busy = false) (hh : s.host = .write 0x000#9 v :: rest)
      (he : e ∈ errValues) : Move s ((s.dropTurn.dropHost.reply .done).setErr e)
  | wait : Move s s.dropTurn

/-- An engine step is one of the four engine moves. -/
theorem move_of_engineStep {s t : State} (hb : s.busy = true) (h : engineStep s.dropTurn = .next t) : Move s t := by
  rcases engineStep_next h with ⟨ho, hi, ⟨hw, rfl⟩ | ⟨hw, rfl⟩⟩ | ⟨ho, ⟨hr, rfl⟩ | ⟨hr, rfl⟩ | ⟨hr, rfl⟩⟩
  · exact .ksNext _ _ hb ho rfl ⟨hi.1, hw⟩
  · exact .ksLast _ _ hb ho rfl (BitVec.eq_of_toNat_eq hw)
  · exact .bcNext _ hb ho (hr.le.trans (by omega))
  · exact .bcNext _ hb ho hr.2
  · exact .bcLast hb ho (BitVec.eq_of_toNat_eq hr)

/-- A storing host write is one of the six writes of the map (R31, R37). -/
theorem move_of_storeByte {s u : State} {a : Offset} {v : Byte} {rest : List HostOp} (hb : s.busy = false)
    (hh : s.host = .write a v :: rest) (hu : s.dropTurn.storeByte a v = some u) : Move s (u.dropHost.reply .done) := by
  obtain ⟨-, -, -, hklen, hblen, heklen⟩ := locate_control (a := a)
  rcases storeByte_some hu with
    ⟨ha, rfl⟩ | ⟨ha, rfl⟩ | ⟨ha, rfl⟩ | ⟨i, ha, rfl⟩ | ⟨i, ha, rfl⟩ | ⟨i, ha, rfl⟩
  · obtain rfl := hklen ha; exact .writeKlen v rest hb hh
  · obtain rfl := hblen ha; exact .writeBlen v rest hb hh
  · obtain rfl := heklen ha; exact .writeEklen v rest hb hh
  · exact .writeKeybuf a v rest i hb hh (locate_keybuf ha)
  · exact .writeInbuf a v rest i hb hh (locate_inbuf ha)
  · exact .writeEkmem a v rest i hb hh (locate_ekmem ha)

/-- A command issued to an idle core starts or fails (R81, R95, R117). -/
theorem move_of_issueCommand {s t : State} {v : Byte} {rest : List HostOp} (hb : s.busy = false)
    (hh : s.host = .write cmdOffset v :: rest) (h : issueCommand (s.dropTurn.dropHost.reply .done) v = .next t) :
    Move s t := by
  rcases issueCommand_next (s := s.dropTurn.dropHost.reply .done) hb h with
    ⟨rfl, hk, rfl⟩ | ⟨rfl, hl, hk, rfl⟩ | ⟨e, he, -, rfl⟩
  · exact .expand rest hb hh hk
  · exact .encrypt rest hb hh hl hk
  · exact .fail v e rest hb hh he

/-- A step that answers a next state is one of the moves. -/
theorem move_of_step {s t : State} (h : step s = .next t) : Move s t := by
  rcases step_next h with ⟨d, ts, hs, rfl⟩ | ⟨hb, he⟩ | ⟨o, rest, hh, ⟨r, rfl⟩ | ⟨r, rfl⟩⟩ |
    ⟨hb, a, v, rest, u, hh, hu, rfl⟩ | ⟨hb, v, rest, hh, hc⟩ | ⟨hb, hh, rfl⟩
  · exact .reset d ts hs
  · exact move_of_engineStep hb he
  · exact .respond r
  · exact .pollAgain r
  · exact move_of_storeByte hb hh hu
  · exact move_of_issueCommand hb hh hc
  · exact .wait

end Sys2Proof.Machine
end

section
/-! PROOFS. Who writes what (R11 to R23), read off the list of moves; the control invariant. -/

namespace Sys2Proof.Proofs

open Sys2Proof.Machine Sys2Proof.Safety

/-- Settles O44: of all moves only the reset and a host write at 0x010 + i change `KEYBUF`. -/
theorem keybufIsWrittenOnlyByTheHost : Obligations.KeybufIsWrittenOnlyByTheHost := by
  intro s t h
  cases move_of_step h with
  | reset d ts hs => exact .inr (.inl ⟨d, ts, hs, rfl⟩)
  | writeKeybuf a v rest i hb hh ha => exact .inr (.inr ⟨hb, a, v, rest, i, hh, ha, rfl⟩)
  | _ => exact .inl (by simp)

/-- Settles O45: of all moves only the reset and a host write at 0x020 + i change `INBUF`. -/
theorem inbufIsWrittenOnlyByTheHost : Obligations.InbufIsWrittenOnlyByTheHost := by
  intro s t h
  cases move_of_step h with
  | reset d ts hs => exact .inr (.inl ⟨d, ts, hs, rfl⟩)
  | writeInbuf a v rest i hb hh ha => exact .inr (.inr ⟨hb, a, v, rest, i, hh, ha, rfl⟩)
  | _ => exact .inl (by simp)

/-- Settles O46: of all moves only the reset and the last BC step change `OUTBUF`. -/
theorem outbufIsWrittenOnlyByTheLastRound : Obligations.OutbufIsWrittenOnlyByTheLastRound := by
  intro s t h
  cases move_of_step h with
  | reset d ts hs => exact .inr (.inl ⟨d, ts, hs, rfl⟩)
  | bcLast hb ho hr => exact .inr (.inr ⟨hb, ho, hr, rfl, rfl⟩)
  | _ => exact .inl (by simp)

/-- Settles O47: the four writers of `EKMEM` among the moves, KS in its two kinds of step. -/
theorem ekmemHasFourWriters : Obligations.EkmemHasFourWriters := by
  intro s t h
  cases move_of_step h with
  | reset d ts hs => exact .inr (.inl ⟨d, ts, hs, rfl⟩)
  | expand rest hb hh hk => exact .inr (.inr (.inl ⟨hb, hk, ⟨rest, hh⟩, fun n hn => by simp [storeKey_get]⟩))
  | ksNext i w hb ho hi _ | ksLast i w hb ho hi _ =>
    refine .inr (.inr (.inr (.inl ⟨hb, ho, fun n hn hne => ?_⟩)))
    exact storeWord_get_other s.ekmem i w n hn (hi ▸ hne)
  | writeEkmem a v rest i hb hh ha => exact .inr (.inr (.inr (.inr ⟨hb, a, v, rest, i, hh, ha, rfl⟩)))
  | _ => exact .inl (by simp)

/-- Settles O48: of all moves only the reset and the outcomes of a write to `CMD` change `ERR`. -/
theorem errIsWrittenOnlyByCommands : Obligations.ErrIsWrittenOnlyByCommands := by
  intro s t h
  cases move_of_step h with
  | reset d ts hs => exact .inr (.inl ⟨⟨d, ts, hs⟩, rfl⟩)
  | expand rest hb hh _ | encrypt rest hb hh _ _ | fail v e rest hb hh _ => exact .inr (.inr ⟨hb, _, rest, hh⟩)
  | _ => exact .inl (by simp)

/-- Settles O49: of all moves only the reset and the host write to the length's own offset change `KLEN` or `BLEN`. -/
theorem klenAndBlenAreWrittenOnlyByTheHost : Obligations.KlenAndBlenAreWrittenOnlyByTheHost := by
  intro s t h
  refine ⟨?klen, ?blen⟩
  case klen =>
    cases move_of_step h with
    | reset d ts hs => exact .inr (.inl ⟨⟨d, ts, hs⟩, rfl⟩)
    | writeKlen v rest hb hh => exact .inr (.inr ⟨hb, v, rest, hh, rfl⟩)
    | _ => exact .inl (by simp)
  case blen =>
    cases move_of_step h with
    | reset d ts hs => exact .inr (.inl ⟨⟨d, ts, hs⟩, rfl⟩)
    | writeBlen v rest hb hh => exact .inr (.inr ⟨hb, v, rest, hh, rfl⟩)
    | _ => exact .inl (by simp)

/-- Settles O50: of all moves only the reset, the last KS step and the host write at 0x006 change `EKLEN`. -/
theorem eklenIsSetByTheLastKsStep : Obligations.EklenIsSetByTheLastKsStep := by
  intro s t h
  cases move_of_step h with
  | reset d ts hs => exact .inr (.inl ⟨⟨d, ts, hs⟩, rfl⟩)
  | ksLast i w hb ho _ hw => exact .inr (.inr (.inl ⟨hb, ho, hw, by simp [expandedKeyLength]⟩))
  | writeEklen v rest hb hh => exact .inr (.inr (.inr ⟨hb, v, rest, hh, rfl⟩))
  | _ => exact .inl (by simp)

/-- Settles O51: `BUSY` goes up only in the two moves that start a command, and down only in the last engine steps and the
reset. -/
theorem busyIsSetOnlyByWellFormedCommands : Obligations.BusyIsSetOnlyByWellFormedCommands := by
  intro s t h
  refine ⟨fun hidle hset => ?up, fun hbusy hclear => ?down⟩
  case up =>
    cases move_of_step h with
    | expand rest _ hh hk => exact ⟨rest, .inl ⟨hh, hk, by simp⟩⟩
    | encrypt rest _ hh hl hk => exact ⟨rest, .inr ⟨hh, hl, hk, by simp⟩⟩
    | _ => simp [hidle] at hset
  case down =>
    cases move_of_step h with
    | reset d ts hs => exact .inl ⟨d, ts, hs⟩
    | ksLast i w _ ho _ hw => exact .inr (.inl ⟨ho, hw⟩)
    | bcLast _ ho hr => exact .inr (.inr ⟨ho, hr⟩)
    | _ => simp [hbusy] at hclear

/-! ### The control invariant -/

/-- An idle core has the control invariant when `ERR` is legal and the counters rest. -/
theorem controlInv_of_idle {s : State} (he : s.err ∈ errValues) (hb : s.busy = false) (hr : s.rnd = 0#4)
    (hw : s.widx = 0#6) : ControlInv s where
  errLegal := he
  idleCounters _ := ⟨hr, hw⟩
  busyErr h := by simp [hb] at h
  ksRunning h := by simp [hb] at h
  bcRunning h := by simp [hb] at h

/-- A core in which KS runs has the control invariant when its counter is in range, the other one rests, and the key length
was checked (R26, R81). -/
theorem controlInv_of_ks {s : State} (he : s.err = 0x00#8) (hb : s.busy = true) (ho : s.op = .ks)
    (hw : 4 ≤ s.widx.toNat ∧ s.widx.toNat ≤ 43) (hr : s.rnd = 0#4) (hk : s.klen = keyLength) : ControlInv s where
  errLegal := by simp [he, errValues]
  idleCounters h := by simp [hb] at h
  busyErr _ := he
  ksRunning _ _ := ⟨hw.1, hw.2, hr, hk⟩
  bcRunning _ h := by simp [ho] at h

/-- A core in which BC runs has the control invariant when its counter is in range, the other one rests, and both lengths
were checked (R25, R95). -/
theorem controlInv_of_bc {s : State} (he : s.err = 0x00#8) (hb : s.busy = true) (ho : s.op = .bc)
    (hr : s.rnd.toNat ≤ 10) (hw : s.widx = 0#6) (hl : s.blen = blockLength) (hk : s.eklen = expandedKeyLength) :
    ControlInv s where
  errLegal := by simp [he, errValues]
  idleCounters h := by simp [hb] at h
  busyErr _ := he
  ksRunning _ h := by simp [ho] at h
  bcRunning _ _ := ⟨hr, hw, hl, hk⟩

/-- The control invariant speaks of the control state only. -/
theorem controlInv_congr {s t : State} (h : ControlInv s) (he : t.err = s.err) (hb : t.busy = s.busy) (ho : t.op = s.op)
    (hr : t.rnd = s.rnd) (hw : t.widx = s.widx) (hk : t.klen = s.klen) (hl : t.blen = s.blen) (hx : t.eklen = s.eklen) :
    ControlInv t := by
  obtain ⟨h1, h2, h3, h4, h5⟩ := h
  constructor <;> simpa only [he, hb, ho, hr, hw, hk, hl, hx]

/-- A move of an idle core that leaves it idle, its counters alone and `ERR` legal keeps the control invariant. -/
theorem controlInv_of_stays_idle {s t : State} (h : ControlInv s) (hs : s.busy = false) (he : t.err ∈ errValues)
    (hb : t.busy = s.busy) (hr : t.rnd = s.rnd) (hw : t.widx = s.widx) : ControlInv t := by
  obtain ⟨hrnd, hwidx⟩ := h.idleCounters hs
  exact controlInv_of_idle he (hb.trans hs) (hr.trans hrnd) (hw.trans hwidx)

/-- Settles O55: move by move; an engine step advances its counter within range or ends the command, a command starts its
engine at the first value after the lengths were checked, and every other move leaves the sequencing state alone. -/
theorem stepKeepsTheControlInvariant : Obligations.StepKeepsTheControlInvariant := by
  intro s t hs h
  cases move_of_step h with
  | reset d ts _ => exact controlInv_of_idle (by simp [errValues]) rfl rfl rfl
  | ksNext i w hb ho hi hr =>
    obtain ⟨-, -, hrnd, hk⟩ := hs.ksRunning hb ho
    refine controlInv_of_ks (by simpa using hs.busyErr hb) (by simpa using hb) (by simpa using ho) ?_ (by simpa using hrnd)
      (by simpa using hk)
    simp only [State.ksNext_widx, State.dropTurn_widx]
    bv_omega
  | ksLast i w hb ho _ _ =>
    obtain ⟨-, -, hrnd, -⟩ := hs.ksRunning hb ho
    exact controlInv_of_idle (by simpa using hs.errLegal) (by simp) (by simpa using hrnd) (by simp)
  | bcNext b hb ho hr =>
    obtain ⟨-, hw, hl, hk⟩ := hs.bcRunning hb ho
    refine controlInv_of_bc (hs.busyErr hb) hb ho ?_ hw hl hk
    simp only [State.bcNext_rnd, State.dropTurn_rnd]
    bv_omega
  | bcLast hb ho _ =>
    obtain ⟨-, hw, -, -⟩ := hs.bcRunning hb ho
    exact controlInv_of_idle (by simpa using hs.errLegal) (by simp) (by simp) (by simpa using hw)
  | expand rest hb _ hk =>
    obtain ⟨hrnd, -⟩ := hs.idleCounters hb
    exact controlInv_of_ks (by simp) (by simp) (by simp) (by simp) (by simpa using hrnd)
      (by simpa [keyLength] using hk)
  | encrypt rest hb _ hl hk =>
    obtain ⟨-, hwidx⟩ := hs.idleCounters hb
    exact controlInv_of_bc (by simp) (by simp) (by simp) (by simp) (by simpa using hwidx)
      (by simpa [blockLength] using hl) (by simpa [expandedKeyLength] using hk)
  | fail v e rest hb _ he => apply controlInv_of_stays_idle hs hb <;> simp [he]
  | writeKlen _ _ hb _ | writeBlen _ _ hb _ | writeEklen _ _ hb _ =>
    apply controlInv_of_stays_idle hs hb <;> simp [hs.errLegal]
  | respond | pollAgain | wait | writeKeybuf | writeInbuf | writeEkmem => apply controlInv_congr hs <;> simp

/-! ### Reset -/

/-- Settles O53: R28's values stand in `State.reset`. -/
theorem resetZeroesTheControlState : Obligations.ResetZeroesTheControlState :=
  ⟨rfl, rfl, rfl, rfl, rfl, rfl, rfl, rfl⟩

/-- Settles O54: the state after reset is idle with its counters at rest, and no engine has produced anything. -/
theorem resetHasTheInvariant : Obligations.ResetHasTheInvariant where
  control := controlInv_of_idle (by decide) rfl rfl rfl
  engine := ⟨nofun, nofun⟩

end Sys2Proof.Proofs
end

section
/-! SUPPORT. Forward equations of the port and the engines: the step that a given state takes. -/

namespace Sys2Proof.Machine

open Sys2Proof.Safety

/-! ### The port -/

theorem decodeCode_of_decode {v : Byte} {i : Instr} (h : decode [v] = .command i []) : decodeCode v = some i := by
  rw [decode] at h
  split at h <;> simp_all

theorem issueCommand_of_decodeCode {s : State} {v : Byte} {i : Instr} (h : decodeCode v = some i) :
    issueCommand s v = exec i s := by
  simp [issueCommand, h]

/-- The bookkeeping of a step that answers the host: the turn taken, the operation completed, the response given. -/
theorem respond_eq {s : State} {o : HostOp} {rest : List HostOp} (hh : s.host = o :: rest) (r : Reply) :
    s.dropTurn.dropHost.reply r = { s with sched := s.sched.tail, host := rest, replies := s.replies ++ [r] } := by
  simp [State.dropTurn, State.dropHost, State.reply, hh]

/-- A write to `CMD` of an idle core issues the command (R16). -/
theorem step_command {s : State} {v : Byte} {rest : List HostOp} (hb : s.busy = false)
    (hh : s.host = .write cmdOffset v :: rest) (hn : notResetNext s = true) :
    step s = issueCommand (s.dropTurn.dropHost.reply .done) v := by
  rw [step_idle hb hh hn, serve, serveWrite, if_pos rfl]

theorem held_dropTurn (s : State) (o : HostOp) : held s.dropTurn o = held s o := by
  cases o <;> rfl

/-- A turn of the host serves its next operation, busy or idle, unless that operation is held (R36). -/
theorem step_of_host_turn {s : State} {o : HostOp} {rest : List HostOp} {ts : List Turn} (hs : s.sched = .host :: ts)
    (hh : s.host = o :: rest) (hd : held s o = false) : step s = serve s.dropTurn o := by
  simp [step, takeTurn, hs, hostTurn, hh, held_dropTurn, hd]

theorem statusByte_eq (s : State) : statusByte s = if s.busy then 0x01#8 else 0x00#8 := by
  unfold statusByte
  cases s.busy <;> rfl

theorem serve_read_status (s : State) :
    serve s (.read statusOffset) = .next (s.dropHost.reply (.data (statusByte s))) := by
  simp [serve, serveRead, State.readByte, locate_statusOffset]

theorem serve_write_status (s : State) (v : Byte) :
    serve s (.write statusOffset v) = .fault (.busErrorWrite statusOffset v) := by
  have hne : statusOffset ≠ cmdOffset := by decide
  simp [serve, serveWrite, hne, State.storeByte, locate_statusOffset]

/-! ### The engines -/

theorem ksStep_of_lt_last {s : State} (h : 4 ≤ s.widx.toNat ∧ s.widx.toNat ≤ 43) (hlt : s.widx.toNat < 43) :
    ksStep s = .next (s.ksNext ⟨s.widx.toNat, by omega⟩ (ksWord s ⟨s.widx.toNat, h⟩)) := by
  rw [ksStep, dif_pos h, if_pos hlt]

theorem ksStep_of_last {s : State} (h : 4 ≤ s.widx.toNat ∧ s.widx.toNat ≤ 43) (hl : ¬s.widx.toNat < 43) :
    ksStep s = .next (s.ksLast ⟨s.widx.toNat, by omega⟩ (ksWord s ⟨s.widx.toNat, h⟩)) := by
  rw [ksStep, dif_pos h, if_neg hl]

theorem ksStep_of_out_of_range {s : State} (h : ¬(4 ≤ s.widx.toNat ∧ s.widx.toNat ≤ 43)) :
    ksStep s = .fault (.widxOutOfRange s.widx) := by
  rw [ksStep, dif_neg h]

theorem bcStep_of_zero {s : State} (h : s.rnd.toNat = 0) : bcStep s = .next (s.bcNext (addRoundKey s.st s.ekmem 0)) := by
  rw [bcStep, if_pos h]

theorem bcStep_of_standard {s : State} (h : 1 ≤ s.rnd.toNat ∧ s.rnd.toNat ≤ 9) :
    bcStep s = .next (s.bcNext (standardRound s.ekmem ⟨s.rnd.toNat, by omega⟩ s.st)) := by
  rw [bcStep, if_neg (by omega), dif_pos h.2]

theorem bcStep_of_last {s : State} (h : s.rnd.toNat = 10) : bcStep s = .next (s.bcLast (finalRound s.ekmem s.st)) := by
  rw [bcStep, if_neg (by omega), dif_neg (by omega), if_pos h]

theorem bcStep_of_out_of_range {s : State} (h : 10 < s.rnd.toNat) : bcStep s = .fault (.rndOutOfRange s.rnd) := by
  rw [bcStep, if_neg (by omega), dif_neg (by omega), if_neg (by omega)]

theorem engineStep_of_ks {s : State} (ho : s.op = .ks) : engineStep s = ksStep s := by
  simp [engineStep, ho]

theorem engineStep_of_bc {s : State} (ho : s.op = .bc) : engineStep s = bcStep s := by
  simp [engineStep, ho]

/-! ### Runs with no turn settled -/

theorem notResetNext_of_nil {s : State} (hs : s.sched = []) : notResetNext s = true := by
  simp [notResetNext_iff, hs]

/-- With no turn settled the running engine comes first (log 3). -/
theorem step_of_busy {s : State} (hs : s.sched = []) (hb : s.busy = true) : step s = engineStep s := by
  simp [step, takeTurn, hs, engineTurn, hb]

theorem step_of_ks {s : State} (hs : s.sched = []) (hb : s.busy = true) (ho : s.op = .ks) : step s = ksStep s :=
  (step_of_busy hs hb).trans (engineStep_of_ks ho)

theorem step_of_bc {s : State} (hs : s.sched = []) (hb : s.busy = true) (ho : s.op = .bc) : step s = bcStep s :=
  (step_of_busy hs hb).trans (engineStep_of_bc ho)

/-- An idle core with nothing asked of it stays as it is (R122). -/
theorem step_of_quiet {s : State} (hs : s.sched = []) (hb : s.busy = false) (hh : s.host = []) : step s = .next s := by
  simp [step, takeTurn, hs, engineTurn, hostTurn, hb, hh]

theorem coreRun_succ (M : Host.Core) {n : Nat} {s t : M.State} (h : M.step s = .next t) : M.run (n + 1) s = M.run n t := by
  simp [Host.Core.run, h]

theorem run_succ {n : Nat} {s t : State} (h : step s = .next t) :
    Host.Core.run Sys2Proof.core (n + 1) s = Host.Core.run Sys2Proof.core n t :=
  coreRun_succ Sys2Proof.core h

theorem run_of_quiet (n : Nat) {s : State} (hs : s.sched = []) (hb : s.busy = false) (hh : s.host = []) :
    Host.Core.run Sys2Proof.core n s = .next s := by
  induction n with
  | zero => rfl
  | succ n ih => exact (run_succ (step_of_quiet hs hb hh)).trans ih

end Sys2Proof.Machine
end

section
/-! SUPPORT. What the two engines compute: KS builds `ExpandKey` word by word (R80, R82), BC runs `Cipher` round by round
(R94, R96). -/

namespace Sys2Proof.Machine

open Sys2Proof.Safety

/-! ### KS -/

/-- The first `m` words of `ek` are those of `ExpandKey(key)` (the partial result of KS in `EngineInv`). -/
def HasKeyWords (key : Block) (ek : ExpandedKey) (m : Nat) : Prop :=
  ∀ (n : Nat) (h : n < 176), n < 4 * m → ek[n] = (expandKey key)[n]

theorem wordAt_expandKey (key : Block) (i : Fin 44) : wordAt (expandKey key) i = keyWord key i := by
  apply Vector.ext
  intro k hk
  have h1 : (4 * i.val + k) / 4 = i.val := by omega
  have h2 : (4 * i.val + k) % 4 = k := by omega
  rw [wordAt_get, expandKey_get]
  simp only [h1, h2]

/-- The recurrence of R80 on whole words. -/
theorem keyWord_eq_nextWord (key : Block) (i : WordIndex) :
    keyWord key ⟨i.val, by have := i.property; omega⟩ =
      nextWord i (keyWord key ⟨i.val - 1, by have := i.property; omega⟩)
        (keyWord key ⟨i.val - 4, by have := i.property; omega⟩) := by
  obtain ⟨i, h4, h43⟩ := i
  obtain ⟨n, rfl⟩ : ∃ n, i = n + 4 := ⟨i - 4, by omega⟩
  have hprev := keyWindow_get key n 3 (by omega) (by omega)
  have hback := keyWindow_get key n 0 (by omega) (by omega)
  rw [keyWord_later key _ h4]
  simp only [show n + 4 - 3 = n + 1 by omega, show n + 4 - 1 = n + 3 by omega, show n + 4 - 4 = n + 0 by omega,
    ← hprev, ← hback]
  simp [keyWindow]

theorem HasKeyWords.wordAt_eq {key : Block} {ek : ExpandedKey} {m : Nat} (h : HasKeyWords key ek m) (i : Fin 44)
    (hi : i.val < m) : wordAt ek i = keyWord key i := by
  rw [← wordAt_expandKey]
  apply Vector.ext
  intro k hk
  rw [wordAt_get, wordAt_get]
  exact h _ _ (by omega)

/-- The KS engine step computes the next word of the schedule. -/
theorem HasKeyWords.ksWord_eq {s : State} {key : Block} (i : WordIndex) (h : HasKeyWords key s.ekmem i.val) :
    ksWord s i = keyWord key ⟨i.val, by have := i.property; omega⟩ := by
  have hi := i.property
  rw [keyWord_eq_nextWord, ksWord, h.wordAt_eq _ (by simp only; omega), h.wordAt_eq _ (by simp only; omega)]

theorem HasKeyWords.storeWord_succ {key : Block} {ek : ExpandedKey} (i : Fin 44) (h : HasKeyWords key ek i.val) :
    HasKeyWords key (storeWord ek i (keyWord key i)) (i.val + 1) := by
  intro n hn hlt
  by_cases hi : n / 4 = i.val
  · rw [storeWord_get, if_pos hi, expandKey_get]
    simp only [hi]
  · rw [storeWord_get_other _ _ _ _ _ hi]
    exact h n hn (by omega)

/-- What the acceptance of EXPAND copies are the first four words (R81). -/
theorem hasKeyWords_storeKey (key : Block) (ek : ExpandedKey) : HasKeyWords key (storeKey ek key) 4 := by
  intro n hn hlt
  have h16 : n < 16 := by omega
  rw [storeKey_get, dif_pos h16, expandKey_get, keyWord_first _ _ (by simp only; omega), blockWord_get]
  simp only [show 4 * (n / 4) + n % 4 = n by omega]

theorem HasKeyWords.eq_expandKey {key : Block} {ek : ExpandedKey} (h : HasKeyWords key ek 44) : ek = expandKey key :=
  Vector.ext fun n hn => h n hn (by omega)

/-- The run of KS to its end: from word `43 - n` on, `n + 1` steps complete `ExpandKey(KEYBUF)` and the command (R82). -/
theorem run_ks (n : Nat) (s : State) (hs : s.sched = []) (hb : s.busy = true) (ho : s.op = .ks) (h4 : 4 ≤ s.widx.toNat)
    (hn : s.widx.toNat + n = 43) (hk : HasKeyWords s.keybuf s.ekmem s.widx.toNat) :
    Host.Core.run Sys2Proof.core (n + 1) s = .next { s with
      ekmem := expandKey s.keybuf, widx := 0#6, eklen := expandedKeyLength, busy := false } := by
  induction n generalizing s with
  | zero =>
    have hstep := step_of_ks hs hb ho
    have hnext := hk.storeWord_succ ⟨s.widx.toNat, by omega⟩
    rw [ksStep_of_last (by omega) (by omega), hk.ksWord_eq ⟨s.widx.toNat, by omega⟩] at hstep
    simp only [show s.widx.toNat + 1 = 44 by omega] at hnext
    refine (run_succ hstep).trans ?_
    rw [← hnext.eq_expandKey]
    rfl
  | succ n ih =>
    have hstep := step_of_ks hs hb ho
    have hnext := hk.storeWord_succ ⟨s.widx.toNat, by omega⟩
    rw [ksStep_of_lt_last (by omega) (by omega), hk.ksWord_eq ⟨s.widx.toNat, by omega⟩] at hstep
    have hw : (s.widx + 1#6).toNat = s.widx.toNat + 1 := by bv_omega
    refine (run_succ hstep).trans ((ih _ ?_ ?_ ?_ ?_ ?_ ?_).trans ?_)
    · simpa using hs
    · simpa using hb
    · simpa using ho
    · rw [State.ksNext_widx, hw]; omega
    · rw [State.ksNext_widx, hw]; omega
    · simpa only [State.ksNext_keybuf, State.ksNext_ekmem, State.ksNext_widx, hw] using hnext
    · dsimp only [State.ksNext]

/-! ### BC -/

/-- A BC engine step before the last one takes `ST` to its next value in `Cipher` (R96). -/
theorem bcStep_of_stateBefore {s : State} {p : Block} (hr : s.rnd.toNat ≤ 9)
    (hst : s.st = stateBefore p s.ekmem s.rnd.toNat) :
    bcStep s = .next (s.bcNext (stateBefore p s.ekmem (s.rnd.toNat + 1))) := by
  rcases Nat.eq_zero_or_pos s.rnd.toNat with h0 | hpos
  · rw [bcStep_of_zero h0, hst, h0]
    rfl
  · obtain ⟨r, hr'⟩ : ∃ r, s.rnd.toNat = r + 1 := ⟨s.rnd.toNat - 1, by omega⟩
    rw [bcStep_of_standard ⟨hpos, hr⟩, hst]
    simp only [hr']
    rw [stateBefore, dif_pos (by omega)]

/-- `Cipher` is the final round on the state after nine standard ones (R94). -/
theorem finalRound_stateBefore (p : Block) (ek : ExpandedKey) : finalRound ek (stateBefore p ek 10) = cipher p ek := by
  simp [stateBefore, cipher]

/-- The run of BC to its end: from round key `10 - n` on, `n + 1` steps complete `Cipher` and the command (R96). -/
theorem run_bc (n : Nat) (s : State) (p : Block) (hs : s.sched = []) (hb : s.busy = true) (ho : s.op = .bc)
    (hn : s.rnd.toNat + n = 10) (hst : s.st = stateBefore p s.ekmem s.rnd.toNat) :
    Host.Core.run Sys2Proof.core (n + 1) s = .next { s with
      st := cipher p s.ekmem, outbuf := cipher p s.ekmem, rnd := 0#4, busy := false } := by
  induction n generalizing s with
  | zero =>
    have hstep := step_of_bc hs hb ho
    rw [bcStep_of_last hn, hst, show s.rnd.toNat = 10 from hn, finalRound_stateBefore] at hstep
    exact run_succ hstep
  | succ n ih =>
    have hstep := step_of_bc hs hb ho
    rw [bcStep_of_stateBefore (by omega) hst] at hstep
    have hw : (s.rnd + 1#4).toNat = s.rnd.toNat + 1 := by bv_omega
    refine (run_succ hstep).trans ((ih (s.bcNext _) hs hb ho ?_ ?_).trans rfl)
    · rw [State.bcNext_rnd, hw]; omega
    · rw [State.bcNext_st, State.bcNext_ekmem, State.bcNext_rnd, hw]

end Sys2Proof.Machine
end

section
/-! SUPPORT. Whole commands from their acceptance, with no turn settled (R83, R97). -/

namespace Sys2Proof.Machine

open Sys2Proof.Safety

variable {s s1 s2 : State} {rest : List HostOp}

theorem expandErrors_eq_zero_iff (s : State) : expandErrors s = 0x00#8 ↔ s.klen = 16#8 := by
  rw [expandErrors_eq]
  split <;> simp_all

theorem encryptErrors_eq_zero_iff (s : State) : encryptErrors s = 0x00#8 ↔ s.blen = 16#8 ∧ s.eklen = 176#8 := by
  rw [encryptErrors_eq]
  by_cases hl : s.blen = 16#8 <;> by_cases hk : s.eklen = 176#8 <;> simp [hl, hk]

theorem acceptCommand_start {e : Byte} (start : State → State) (hb : s.busy = false) (he : e = 0x00#8) :
    acceptCommand s e start = .next (start (s.setErr 0x00#8)) := by
  simp [acceptCommand, hb, he]

theorem acceptCommand_fail {e : Byte} (start : State → State) (hb : s.busy = false) (he : e ≠ 0x00#8) :
    acceptCommand s e start = .next (s.setErr e) := by
  simp [acceptCommand, hb, he]

/-- The step that serves a write of EXPAND's code. -/
theorem step_expand (hb : s.busy = false) (hs : s.sched = []) (hh : s.host = .write 0x000#9 0x01#8 :: rest) :
    step s = acceptCommand (s.dropTurn.dropHost.reply .done) (expandErrors s) State.startExpand := by
  rw [step_command hb hh (notResetNext_of_nil hs), issueCommand_of_decodeCode (i := .expand) (by decide)]
  rfl

/-- The step that serves a write of ENCRYPT's code. -/
theorem step_encrypt (hb : s.busy = false) (hs : s.sched = []) (hh : s.host = .write 0x000#9 0x02#8 :: rest) :
    step s = acceptCommand (s.dropTurn.dropHost.reply .done) (encryptErrors s) State.startEncrypt := by
  rw [step_command hb hh (notResetNext_of_nil hs), issueCommand_of_decodeCode (i := .encrypt) (by decide)]
  rfl

/-- EXPAND with a right length: its acceptance and 40 KS steps leave `ExpandKey(KEYBUF)` (R83). -/
theorem run_expand (hb : s.busy = false) (hs : s.sched = []) (hh : s.host = .write 0x000#9 0x01#8 :: rest)
    (he : expandErrors s = 0x00#8) :
    Host.Core.run Sys2Proof.core 41 s = .next { s with
      host := rest
      replies := s.replies ++ [.done]
      err := 0x00#8
      eklen := 176#8
      ekmem := expandKey s.keybuf
      widx := 0#6
      op := .ks } := by
  have hstep := (step_expand hb hs hh).trans (acceptCommand_start _ hb he)
  rw [respond_eq hh] at hstep
  refine (run_succ hstep).trans ((run_ks 39 _ ?_ ?_ ?_ ?_ ?_ ?_).trans ?_)
  · simp [hs]
  · simp
  · simp
  · simp
  · simp
  · simpa using hasKeyWords_storeKey s.keybuf s.ekmem
  · simp [State.startExpand, State.setErr, expandedKeyLength, hb, hs]

/-- ENCRYPT with right lengths: its acceptance and 11 BC steps leave `Cipher(INBUF, EKMEM)` (R97). -/
theorem run_encrypt (hb : s.busy = false) (hs : s.sched = []) (hh : s.host = .write 0x000#9 0x02#8 :: rest)
    (he : encryptErrors s = 0x00#8) :
    Host.Core.run Sys2Proof.core 12 s = .next { s with
      host := rest
      replies := s.replies ++ [.done]
      err := 0x00#8
      outbuf := cipher s.inbuf s.ekmem
      st := cipher s.inbuf s.ekmem
      rnd := 0#4
      op := .bc } := by
  have hstep := (step_encrypt hb hs hh).trans (acceptCommand_start _ hb he)
  rw [respond_eq hh] at hstep
  refine (run_succ hstep).trans ((run_bc 10 _ s.inbuf ?_ ?_ ?_ ?_ ?_).trans ?_)
  · simp [hs]
  · simp
  · simp
  · simp
  · simp [stateBefore]
  · simp [State.startEncrypt, State.setErr, hb, hs]

/-- A failing command, and nothing after it: however long the run, only `ERR` is written (R117). -/
theorem run_failed (n : Nat) {o : HostOp} {e : Byte} {start : State → State} (hb : s.busy = false) (hs : s.sched = [])
    (hh : s.host = [o]) (he : e ≠ 0x00#8)
    (hstep : step s = acceptCommand (s.dropTurn.dropHost.reply .done) e start) :
    Host.Core.run Sys2Proof.core (n + 1) s = .next ((s.dropTurn.dropHost.reply .done).setErr e) := by
  have hfail := hstep.trans (acceptCommand_fail start hb he)
  exact (run_succ hfail).trans (run_of_quiet n (by simp [hs]) hb (by simp [hh]))

/-- The result of EXPAND is a function of `KEYBUF` and `KLEN` (R29, R83). -/
theorem expand_result_of_operands (hb1 : s1.busy = false) (hb2 : s2.busy = false) (hs1 : s1.sched = []) (hs2 : s2.sched = [])
    (hh1 : s1.host = [.write 0x000#9 0x01#8]) (hh2 : s2.host = [.write 0x000#9 0x01#8])
    (hkey : s1.keybuf = s2.keybuf) (hlen : s1.klen = s2.klen) :
    ∃ t1 t2 : State, Host.Core.run Sys2Proof.core 41 s1 = .next t1 ∧ Host.Core.run Sys2Proof.core 41 s2 = .next t2 ∧
      t1.err = t2.err ∧ (t1.err = 0x00#8 → t1.ekmem = t2.ekmem ∧ t1.eklen = t2.eklen) := by
  have herr : expandErrors s1 = expandErrors s2 := by rw [expandErrors_eq, expandErrors_eq, hlen]
  by_cases he : expandErrors s1 = 0x00#8
  · exact ⟨_, _, run_expand hb1 hs1 hh1 he, run_expand hb2 hs2 hh2 (herr ▸ he), rfl,
      fun _ => ⟨congrArg expandKey hkey, rfl⟩⟩
  · exact ⟨_, _, run_failed 40 hb1 hs1 hh1 he (step_expand hb1 hs1 hh1),
      run_failed 40 hb2 hs2 hh2 (herr ▸ he) (step_expand hb2 hs2 hh2), herr, fun h => absurd h he⟩

/-- The result of ENCRYPT is a function of `INBUF`, `BLEN`, `EKMEM` and `EKLEN` (R29, R97, R98). -/
theorem encrypt_result_of_operands (hb1 : s1.busy = false) (hb2 : s2.busy = false) (hs1 : s1.sched = [])
    (hs2 : s2.sched = []) (hh1 : s1.host = [.write 0x000#9 0x02#8]) (hh2 : s2.host = [.write 0x000#9 0x02#8])
    (hblock : s1.inbuf = s2.inbuf) (hlen : s1.blen = s2.blen) (hkey : s1.ekmem = s2.ekmem) (hklen : s1.eklen = s2.eklen) :
    ∃ t1 t2 : State, Host.Core.run Sys2Proof.core 12 s1 = .next t1 ∧ Host.Core.run Sys2Proof.core 12 s2 = .next t2 ∧
      t1.err = t2.err ∧ (t1.err = 0x00#8 → t1.outbuf = t2.outbuf) := by
  have herr : encryptErrors s1 = encryptErrors s2 := by rw [encryptErrors_eq, encryptErrors_eq, hlen, hklen]
  by_cases he : encryptErrors s1 = 0x00#8
  · exact ⟨_, _, run_encrypt hb1 hs1 hh1 he, run_encrypt hb2 hs2 hh2 (herr ▸ he), rfl,
      fun _ => congrArg₂ cipher hblock hkey⟩
  · exact ⟨_, _, run_failed 11 hb1 hs1 hh1 he (step_encrypt hb1 hs1 hh1),
      run_failed 11 hb2 hs2 hh2 (herr ▸ he) (step_encrypt hb2 hs2 hh2), herr, fun h => absurd h he⟩

end Sys2Proof.Machine
end

section
/-! PROOFS. The step that serves `CMD` or `STATUS`, the engines' stops, and the result of a whole command. -/

namespace Sys2Proof.Proofs

open Sys2Proof.Machine Sys2Proof.Safety

/-- Settles O37: each run ends in `ExpandKey` or `Cipher` of the operands, or fails at once with its causes. -/
theorem resultDependsOnOperandsOnly : Obligations.ResultDependsOnOperandsOnly :=
  fun _ _ hb1 hb2 hs1 hs2 =>
    ⟨expand_result_of_operands hb1 hb2 hs1 hs2, encrypt_result_of_operands hb1 hb2 hs1 hs2⟩

/-- Settles O23: the idle core serves the write, and the decoder gives the command that is issued. -/
theorem stepRunsTheDecodedCommand : Obligations.StepRunsTheDecodedCommand := by
  intro s v i rest hb hh hn hdec _
  rw [step_command hb hh hn, issueCommand_of_decodeCode (decodeCode_of_decode hdec), respond_eq hh]

/-- Settles O33: both engine steps end in their fault outside the range of their counter. -/
theorem countersThatNeverOccurStop : Obligations.CountersThatNeverOccurStop := by
  refine fun s => ⟨fun ho hw => ?ks, fun ho hr => ?bc⟩
  case ks => rw [engineStep_of_ks ho, ksStep_of_out_of_range (by omega)]
  case bc => rw [engineStep_of_bc ho, bcStep_of_out_of_range hr]

/-- Settles O39: a read of `STATUS` is never held, so the host's turn serves it; a write is not held by an idle core, and the
map permits none. -/
theorem statusReadAnswersAtOnce : Obligations.StatusReadAnswersAtOnce := by
  refine fun s rest ts hs => ⟨fun hh => ?read, fun v hb hh => ?write⟩
  case read =>
    have hheld : held s (.read statusOffset) = false := by simp [held]
    refine (step_of_host_turn hs hh hheld).trans ((serve_read_status _).trans ?_)
    rw [respond_eq hh, statusByte_eq, hs]
    rfl
  case write =>
    have hheld : held s (.write statusOffset v) = false := by simp [held, hb]
    exact (step_of_host_turn hs hh hheld).trans (serve_write_status _ v)

end Sys2Proof.Proofs
end

section
/-! SUPPORT. The host port: where each location stands (R31), what a host access finds and leaves there (R35, R37), and
which accesses the map permits (R38). -/

namespace Sys2Proof.Machine

open Sys2Proof.Safety

/-! ### The address map -/

theorem locate_eq_keybuf_iff {a : Offset} {i : Fin 16} : locate a = .keybuf i ↔ a.toNat = 0x010 + i.val := by
  fun_cases locate a <;> simp [Fin.ext_iff] <;> omega

theorem locate_eq_inbuf_iff {a : Offset} {i : Fin 16} : locate a = .inbuf i ↔ a.toNat = 0x020 + i.val := by
  fun_cases locate a <;> simp [Fin.ext_iff] <;> omega

theorem locate_eq_outbuf_iff {a : Offset} {i : Fin 16} : locate a = .outbuf i ↔ a.toNat = 0x030 + i.val := by
  fun_cases locate a <;> simp [Fin.ext_iff] <;> omega

theorem locate_eq_ekmem_iff {a : Offset} {i : Fin 176} : locate a = .ekmem i ↔ a.toNat = 0x100 + i.val := by
  fun_cases locate a <;> simp [Fin.ext_iff] <;> omega

/-- The offsets without a name (R31). -/
theorem locate_eq_reserved_iff {a : Offset} : locate a = .reserved ↔
    a.toNat = 0x003 ∨ (0x007 ≤ a.toNat ∧ a.toNat ≤ 0x00F) ∨ (0x040 ≤ a.toNat ∧ a.toNat ≤ 0x0FF) ∨ 0x1B0 ≤ a.toNat := by
  fun_cases locate a <;> simp <;> omega

/-- Every named location is found at its offset (R31, R32). -/
theorem locate_of_offset {a : Offset} {l : Location} (h : l.offset = some a) : locate a = l := by
  cases l with
  | cmd | status | err | klen | blen | eklen => cases h; rfl
  | keybuf i => cases h; exact locate_eq_keybuf_iff.mpr (Nat.mod_eq_of_lt (by omega))
  | inbuf i => cases h; exact locate_eq_inbuf_iff.mpr (Nat.mod_eq_of_lt (by omega))
  | outbuf i => cases h; exact locate_eq_outbuf_iff.mpr (Nat.mod_eq_of_lt (by omega))
  | ekmem i => cases h; exact locate_eq_ekmem_iff.mpr (Nat.mod_eq_of_lt (by omega))
  | reserved => cases h

/-- Every offset that is not reserved is the offset of what stands there. -/
theorem offset_locate {a : Offset} (h : locate a ≠ .reserved) : (locate a).offset = some a := by
  obtain ⟨hcmd, hstatus, herr, hklen, hblen, heklen⟩ := locate_control (a := a)
  cases hl : locate a with
  | cmd => rw [hcmd hl]; rfl
  | status => rw [hstatus hl]; rfl
  | err => rw [herr hl]; rfl
  | klen => rw [hklen hl]; rfl
  | blen => rw [hblen hl]; rfl
  | eklen => rw [heklen hl]; rfl
  | keybuf i => simp [Location.offset, ← locate_keybuf hl]
  | inbuf i => simp [Location.offset, ← locate_inbuf hl]
  | outbuf i => simp [Location.offset, ← locate_outbuf hl]
  | ekmem i => simp [Location.offset, ← locate_ekmem hl]
  | reserved => exact absurd hl h

/-- No location has two offsets. -/
theorem locate_inj {a b : Offset} (ha : locate a ≠ .reserved) (h : locate b = locate a) : b = a := by
  have hb := offset_locate (h.symm ▸ ha)
  rw [h, offset_locate ha] at hb
  exact (Option.some.inj hb).symm

/-! ### What the map permits -/

/-- The reads the map does not permit (R38). -/
theorem permitted_read_eq_false_iff {a : Offset} : permitted (.read a) = false ↔
    a.toNat = 0x000 ∨ a.toNat = 0x003 ∨ (0x007 ≤ a.toNat ∧ a.toNat ≤ 0x00F) ∨
      (0x040 ≤ a.toNat ∧ a.toNat ≤ 0x0FF) ∨ 0x1B0 ≤ a.toNat := by
  simp only [permitted]
  fun_cases locate a <;> simp <;> omega

/-- The writes the map does not permit (R38). -/
theorem permitted_write_eq_false_iff {a : Offset} {v : Byte} : permitted (.write a v) = false ↔
    a.toNat = 0x001 ∨ a.toNat = 0x002 ∨ a.toNat = 0x003 ∨ (0x007 ≤ a.toNat ∧ a.toNat ≤ 0x00F) ∨
      (0x030 ≤ a.toNat ∧ a.toNat ≤ 0x0FF) ∨ 0x1B0 ≤ a.toNat := by
  simp only [permitted]
  fun_cases locate a <;> simp <;> omega

/-- A read finds a byte exactly where the map permits one. -/
theorem readByte_eq_none_iff {s : State} {a : Offset} : s.readByte a = none ↔ permitted (.read a) = false := by
  cases hl : locate a <;> simp [State.readByte, permitted, hl]

/-- A write stores a byte exactly where the map permits one, but for `CMD`, whose write is a command. -/
theorem storeByte_eq_none_iff {s : State} {a : Offset} {v : Byte} :
    s.storeByte a v = none ↔ permitted (.write a v) = false ∨ locate a = .cmd := by
  cases hl : locate a <;> simp [State.storeByte, permitted, hl]

/-! ### Serving an access -/

theorem serve_read_of_readByte {s : State} {a : Offset} {v : Byte} (h : s.readByte a = some v) :
    serve s (.read a) = .next (s.dropHost.reply (.data v)) := by
  simp [serve, serveRead, h]

theorem serve_read_of_not_permitted {s : State} {a : Offset} (h : permitted (.read a) = false) :
    serve s (.read a) = .fault (.busErrorRead a) := by
  simp [serve, serveRead, readByte_eq_none_iff.mpr h]

theorem serve_write_of_storeByte {s u : State} {a : Offset} {v : Byte} (h : s.storeByte a v = some u) :
    serve s (.write a v) = .next (u.dropHost.reply .done) := by
  have hcmd : a ≠ cmdOffset := by
    rintro rfl
    simp [State.storeByte, locate_cmdOffset] at h
  simp [serve, serveWrite, hcmd, h]

theorem serve_write_of_not_permitted {s : State} {a : Offset} {v : Byte} (h : permitted (.write a v) = false) :
    serve s (.write a v) = .fault (.busErrorWrite a v) := by
  have hcmd : a ≠ cmdOffset := by
    rintro rfl
    simp [permitted, locate_cmdOffset] at h
  simp [serve, serveWrite, hcmd, storeByte_eq_none_iff.mpr (.inl h)]

/-- A command always answers a next state: it holds, starts, or fails with its causes (R81, R95, R117, R54). -/
theorem issueCommand_answers (s : State) (v : Byte) : ∃ t, issueCommand s v = .next t := by
  unfold issueCommand
  cases decodeCode v with
  | none =>
    rcases acceptCommand_cases s errBadcmd id with ⟨-, h⟩ | ⟨-, -, h⟩ | ⟨-, -, h⟩ <;> exact ⟨_, h⟩
  | some i =>
    rcases exec_cases i s with ⟨-, h⟩ | ⟨-, -, -, h⟩ | ⟨-, -, -, h⟩ | ⟨-, -, -, h⟩ | ⟨-, -, -, h⟩ <;> exact ⟨_, h⟩

/-- A permitted access that is not held answers a next state (R38). -/
theorem serve_answers {s : State} {o : HostOp} (h : permitted o = true) : ∃ t, serve s o = .next t := by
  cases o with
  | read a =>
    obtain ⟨v, hv⟩ : ∃ v, s.readByte a = some v :=
      Option.ne_none_iff_exists'.mp fun hn => by simp [readByte_eq_none_iff.mp hn] at h
    exact ⟨_, serve_read_of_readByte hv⟩
  | write a v =>
    by_cases hcmd : a = cmdOffset
    · subst hcmd
      simpa [serve, serveWrite] using issueCommand_answers (s.dropHost.reply .done) v
    · obtain ⟨u, hu⟩ : ∃ u, s.storeByte a v = some u := by
        refine Option.ne_none_iff_exists'.mp fun hn => ?_
        rcases storeByte_eq_none_iff.mp hn with hp | hl
        · simp [hp] at h
        · exact hcmd (locate_control.1 hl)
      exact ⟨_, serve_write_of_storeByte hu⟩
  | poll =>
    simp only [serve, servePoll]
    split <;> exact ⟨_, rfl⟩

theorem not_permitted_of_serve_fault {s : State} {o : HostOp} {f : Fault} (h : serve s o = .fault f) :
    permitted o = false := by
  by_contra hp
  obtain ⟨t, ht⟩ := serve_answers (s := s) (Bool.not_eq_false _ ▸ hp)
  cases h.symm.trans ht

theorem serve_read_fault_iff {s : State} {a : Offset} :
    serve s (.read a) = .fault (.busErrorRead a) ↔ permitted (.read a) = false :=
  ⟨not_permitted_of_serve_fault, serve_read_of_not_permitted⟩

theorem serve_write_fault_iff {s : State} {a : Offset} {v : Byte} :
    serve s (.write a v) = .fault (.busErrorWrite a v) ↔ permitted (.write a v) = false :=
  ⟨not_permitted_of_serve_fault, serve_write_of_not_permitted⟩

/-! ### Stored bytes read back -/

section
variable (s : State) (b : Offset) (v : Byte)

theorem readByte_setKlen : (s.setKlen v).readByte b = if locate b = .klen then some v else s.readByte b := by
  cases hl : locate b <;> simp [State.readByte, statusByte, hl]

theorem readByte_setBlen : (s.setBlen v).readByte b = if locate b = .blen then some v else s.readByte b := by
  cases hl : locate b <;> simp [State.readByte, statusByte, hl]

theorem readByte_setEklen : (s.setEklen v).readByte b = if locate b = .eklen then some v else s.readByte b := by
  cases hl : locate b <;> simp [State.readByte, statusByte, hl]

theorem readByte_setKeybuf (i : Fin 16) :
    (s.setKeybuf i v).readByte b = if locate b = .keybuf i then some v else s.readByte b := by
  cases hl : locate b <;>
    simp [State.readByte, statusByte, hl, Vector.getElem_set, Fin.ext_iff, eq_comm (a := i.val), apply_ite some]

theorem readByte_setInbuf (i : Fin 16) :
    (s.setInbuf i v).readByte b = if locate b = .inbuf i then some v else s.readByte b := by
  cases hl : locate b <;>
    simp [State.readByte, statusByte, hl, Vector.getElem_set, Fin.ext_iff, eq_comm (a := i.val), apply_ite some]

theorem readByte_setEkmem (i : Fin 176) :
    (s.setEkmem i v).readByte b = if locate b = .ekmem i then some v else s.readByte b := by
  cases hl : locate b <;>
    simp [State.readByte, statusByte, hl, Vector.getElem_set, Fin.ext_iff, eq_comm (a := i.val), apply_ite some]

end

/-- A storing write is seen at its location and nowhere else (R37). -/
theorem readByte_of_storeByte {s u : State} {a : Offset} {v : Byte} (h : s.storeByte a v = some u) (b : Offset) :
    u.readByte b = if locate b = locate a then some v else s.readByte b := by
  rcases storeByte_some h with ⟨hl, rfl⟩ | ⟨hl, rfl⟩ | ⟨hl, rfl⟩ | ⟨i, hl, rfl⟩ | ⟨i, hl, rfl⟩ | ⟨i, hl, rfl⟩ <;> rw [hl]
  · exact readByte_setKlen s b v
  · exact readByte_setBlen s b v
  · exact readByte_setEklen s b v
  · exact readByte_setKeybuf s b v i
  · exact readByte_setInbuf s b v i
  · exact readByte_setEkmem s b v i

/-- A storing write changes no field but the lengths and the writable buffers, and one of these only (R37). -/
theorem storeByte_eq {s u : State} {a : Offset} {v : Byte} (h : s.storeByte a v = some u) :
    u = { s with
      keybuf := u.keybuf, inbuf := u.inbuf, ekmem := u.ekmem, klen := u.klen, blen := u.blen, eklen := u.eklen } := by
  rcases storeByte_some h with ⟨-, rfl⟩ | ⟨-, rfl⟩ | ⟨-, rfl⟩ | ⟨i, -, rfl⟩ | ⟨i, -, rfl⟩ | ⟨i, -, rfl⟩ <;> rfl

end Sys2Proof.Machine
end

section
/-! SUPPORT. What a core with the control invariant can always do: its engine never stops, and the host's list only gets
shorter. -/

namespace Sys2Proof.Machine

open Sys2Proof.Safety

/-- The running engine takes a step: its counter is in range (R25, R26, I14). -/
theorem engineStep_answers {s : State} (h : ControlInv s) (hb : s.busy = true) : ∃ t, engineStep s = .next t := by
  cases ho : s.op with
  | ks =>
    obtain ⟨h4, h43, -, -⟩ := h.ksRunning hb ho
    rw [engineStep_of_ks ho]
    by_cases hl : s.widx.toNat < 43
    · exact ⟨_, ksStep_of_lt_last ⟨h4, h43⟩ hl⟩
    · exact ⟨_, ksStep_of_last ⟨h4, h43⟩ hl⟩
  | bc =>
    obtain ⟨h10, -, -, -⟩ := h.bcRunning hb ho
    rw [engineStep_of_bc ho]
    obtain h0 | h9 | hl : s.rnd.toNat = 0 ∨ (1 ≤ s.rnd.toNat ∧ s.rnd.toNat ≤ 9) ∨ s.rnd.toNat = 10 := by omega
    · exact ⟨_, bcStep_of_zero h0⟩
    · exact ⟨_, bcStep_of_standard h9⟩
    · exact ⟨_, bcStep_of_last hl⟩

theorem controlInv_dropTurn {s : State} (h : ControlInv s) : ControlInv s.dropTurn :=
  Proofs.controlInv_congr h rfl rfl rfl rfl rfl rfl rfl rfl

/-- A step of a core with the control invariant whose host asks for permitted accesses only answers a next state. -/
theorem step_answers {s : State} (h : ControlInv s) (hp : s.host.all permitted = true) : ∃ t, step s = .next t := by
  rcases step_eq s with ⟨d, ts, -, hs⟩ | ⟨hb, -, hs⟩ | ⟨o, rest, hh, -, -, hs⟩ | ⟨-, -, -, hs⟩ <;> rw [hs]
  · exact ⟨_, rfl⟩
  · exact engineStep_answers (controlInv_dropTurn h) hb
  · rw [hh, List.all_cons, Bool.and_eq_true] at hp
    exact serve_answers hp.1
  · exact ⟨_, rfl⟩

/-- A step completes at most the operation at the head of the host's list (R41). -/
theorem step_host {s t : State} (h : step s = .next t) : t.host = s.host ∨ t.host = s.host.tail := by
  cases move_of_step h with
  | reset | ksNext | ksLast | bcNext | bcLast | pollAgain | wait => exact .inl (by simp)
  | respond | writeKlen | writeBlen | writeEklen | writeKeybuf | writeInbuf | writeEkmem | expand | encrypt | fail =>
    exact .inr (by simp)

theorem step_keeps_permitted {s t : State} (h : step s = .next t) (hp : s.host.all permitted = true) :
    t.host.all permitted = true := by
  rcases step_host h with ht | ht <;> rw [ht]
  · exact hp
  · rw [List.all_eq_true] at hp ⊢
    exact fun o ho => hp o (List.mem_of_mem_tail ho)

/-- An engine step leaves the host waiting (R36). -/
theorem engineStep_host_replies {s t : State} (h : engineStep s = .next t) : t.host = s.host ∧ t.replies = s.replies := by
  rcases engineStep_next h with ⟨-, -, ⟨-, rfl⟩ | ⟨-, rfl⟩⟩ | ⟨-, ⟨-, rfl⟩ | ⟨-, rfl⟩ | ⟨-, rfl⟩⟩ <;> simp

end Sys2Proof.Machine
end

section
/-! PROOFS. The host port: the address map (R31, R32), what an access answers (R35 to R38), and that a host that asks for
what the map permits never goes wrong. -/

namespace Sys2Proof.Proofs

open Sys2Proof.Machine Sys2Proof.Safety

/-- Settles O59, by induction on the length of the run: the control invariant and the permitted host are kept by every
step, and a core that has both answers a next state. -/
theorem permittedHostNeverGoesWrong : Obligations.PermittedHostNeverGoesWrong := by
  intro n
  induction n with
  | zero => exact fun s _ _ => ⟨s, rfl⟩
  | succ n ih =>
    intro s hinv hp
    obtain ⟨t, ht⟩ := step_answers hinv hp
    obtain ⟨u, hu⟩ := ih t (stepKeepsTheControlInvariant s t hinv ht) (step_keeps_permitted ht hp)
    exact ⟨u, (run_succ ht).trans hu⟩

/-- Settles O3: what has an offset is found there, and what is found at an offset and is not reserved has that offset. -/
theorem addressMapIsOneToOne : Obligations.AddressMapIsOneToOne := by
  refine fun a l => ⟨fun h => ⟨locate_of_offset h, ?_⟩, fun ⟨hl, hr⟩ => ?_⟩
  · rintro rfl
    cases h
  · subst hl
    exact offset_locate hr

/-- Settles O4, branch by branch of the map. -/
theorem reservedOffsetsAreTheListed : Obligations.ReservedOffsetsAreTheListed :=
  fun _ => locate_eq_reserved_iff

/-- Settles O38: everything but a `STATUS` read is held, and the engine touches neither the host's list nor the responses. -/
theorem heldTransactionWaits : Obligations.HeldTransactionWaits := by
  intro s o rest hb hh hstatus hpoll hn
  have hheld : held s o = true := by
    cases o with
    | read a => simpa [held, hb, statusOffset] using hstatus
    | write a v => simpa [held] using hb
    | poll => exact absurd rfl hpoll
  have hstep := step_held hh hheld hn
  exact ⟨hstep, fun t ht => engineStep_host_replies (s := s.dropTurn) (hstep.symm.trans ht)⟩

/-- Settles O41: the idle core serves the read, and each listed offset locates the register whose byte is returned. -/
theorem hostReadReturnsTheByte : Obligations.HostReadReturnsTheByte := by
  intro s a rest v hb hh hn hcase
  have hread : s.dropTurn.readByte a = some v := by
    unfold State.readByte
    rcases hcase with ⟨rfl, rfl⟩ | ⟨rfl, rfl⟩ | ⟨rfl, rfl⟩ | ⟨rfl, rfl⟩ | ⟨rfl, rfl⟩ | ⟨i, hi, ha, rfl⟩ | ⟨i, hi, ha, rfl⟩ |
      ⟨i, hi, ha, rfl⟩ | ⟨i, hi, ha, rfl⟩
    · simp [show locate 0x001#9 = .status from rfl, statusByte_eq, hb]
    · rfl
    · rfl
    · rfl
    · rfl
    · rw [locate_eq_keybuf_iff (i := ⟨i, hi⟩) |>.mpr ha]; rfl
    · rw [locate_eq_inbuf_iff (i := ⟨i, hi⟩) |>.mpr ha]; rfl
    · rw [locate_eq_outbuf_iff (i := ⟨i, hi⟩) |>.mpr ha]; rfl
    · rw [locate_eq_ekmem_iff (i := ⟨i, hi⟩) |>.mpr ha]; rfl
  rw [step_idle hb hh hn, serve_read_of_readByte hread, respond_eq hh]

/-- Settles O42: the idle core serves the write, which stores the byte where the map says and is read back there only. -/
theorem hostWriteChangesOneLocation : Obligations.HostWriteChangesOneLocation := by
  intro s a v rest hb hh hn hrange
  obtain ⟨u, hu⟩ : ∃ u, s.dropTurn.storeByte a v = some u := by
    refine Option.ne_none_iff_exists'.mp fun hnone => ?_
    rcases storeByte_eq_none_iff.mp hnone with hp | hcmd
    · have := permitted_write_eq_false_iff.mp hp
      omega
    · obtain rfl := locate_control.1 hcmd
      revert hrange
      decide
  have hread := readByte_of_storeByte hu
  have hnamed : locate a ≠ .reserved := fun hr => by
    have := locate_eq_reserved_iff.mp hr
    omega
  refine ⟨_, (step_idle hb hh hn).trans (serve_write_of_storeByte hu), ?_, fun b hne => ?_, ?_⟩
  · exact (hread a).trans (if_pos rfl)
  · exact (hread b).trans (if_neg fun hl => hne (locate_inj hnamed hl))
  · rw [storeByte_eq hu]
    simp [State.dropTurn, State.dropHost, State.reply, hh]

/-- Settles O43: an access of an idle core is served, and answers a bus error exactly when the map does not permit it. -/
theorem busErrorExactlyWhereListed : Obligations.BusErrorExactlyWhereListed := by
  refine fun s rest hb hn => ⟨fun a hh => ?read, fun a v hh => ?write⟩
  case read =>
    rw [step_idle hb hh hn, serve_read_fault_iff, permitted_read_eq_false_iff]
  case write =>
    rw [step_idle hb hh hn, serve_write_fault_iff, permitted_write_eq_false_iff]

end Sys2Proof.Proofs
end

section
/-! SUPPORT. A running command under any schedule without a reset: every step is a `STATUS` read or an engine step, and the
last engine step leaves the result (R36, R83, R97, R135). -/

namespace Sys2Proof.Machine

open Sys2Proof.Safety

/-- `t` still runs the command that `s` runs, on the same operands. -/
structure SameCommand (s t : State) : Prop where
  busy : t.busy = true
  op : t.op = s.op
  keybuf : t.keybuf = s.keybuf
  inbuf : t.inbuf = s.inbuf
  outbuf : t.outbuf = s.outbuf
  klen : t.klen = s.klen
  blen : t.blen = s.blen
  expandedKey : s.op = .bc → t.ekmem = s.ekmem ∧ t.eklen = s.eklen

/-- `t` is what the command that runs in `s` leaves: idle, without error, the operands as before, the result in place (R83,
R97). -/
structure Completes (s t : State) : Prop where
  idle : t.busy = false
  noError : t.err = 0x00#8
  keybuf : t.keybuf = s.keybuf
  inbuf : t.inbuf = s.inbuf
  klen : t.klen = s.klen
  blen : t.blen = s.blen
  expanded : s.op = .ks → t.ekmem = expandKey s.keybuf ∧ t.eklen = 176#8 ∧ t.outbuf = s.outbuf
  encrypted : s.op = .bc → t.outbuf = cipher s.inbuf s.ekmem ∧ t.ekmem = s.ekmem ∧ t.eklen = s.eklen

/-- `t` comes after `s` in the run of a command: the command is complete, or goes on from what it has produced so far. -/
def Advances (s t : State) : Prop := Completes s t ∨ (SameCommand s t ∧ EngineInv t)

variable {s t u : State}

theorem SameCommand.trans (h : SameCommand s t) (h' : SameCommand t u) : SameCommand s u where
  busy := h'.busy
  op := h'.op.trans h.op
  keybuf := h'.keybuf.trans h.keybuf
  inbuf := h'.inbuf.trans h.inbuf
  outbuf := h'.outbuf.trans h.outbuf
  klen := h'.klen.trans h.klen
  blen := h'.blen.trans h.blen
  expandedKey ho := by
    obtain ⟨hek, hlen⟩ := h.expandedKey ho
    obtain ⟨hek', hlen'⟩ := h'.expandedKey (h.op.trans ho)
    exact ⟨hek'.trans hek, hlen'.trans hlen⟩

theorem SameCommand.completes (h : SameCommand s t) (hc : Completes t u) : Completes s u where
  idle := hc.idle
  noError := hc.noError
  keybuf := hc.keybuf.trans h.keybuf
  inbuf := hc.inbuf.trans h.inbuf
  klen := hc.klen.trans h.klen
  blen := hc.blen.trans h.blen
  expanded ho := by
    obtain ⟨hek, hlen, hout⟩ := hc.expanded (h.op.trans ho)
    exact ⟨h.keybuf ▸ hek, hlen, hout.trans h.outbuf⟩
  encrypted ho := by
    obtain ⟨hout, hek, hlen⟩ := hc.encrypted (h.op.trans ho)
    obtain ⟨hek', hlen'⟩ := h.expandedKey ho
    exact ⟨by rw [hout, h.inbuf, hek'], hek.trans hek', hlen.trans hlen'⟩

theorem SameCommand.advances (h : SameCommand s t) (ha : Advances t u) : Advances s u := by
  rcases ha with hc | ⟨hsame, he⟩
  · exact .inl (h.completes hc)
  · exact .inr ⟨h.trans hsame, he⟩

/-- Whose turn it is, and what the host still asks for and has received, are no part of a running command (R36). -/
theorem sameCommand_bookkeeping (hb : s.busy = true) (host : List HostOp) (sched : List Turn) (replies : List Reply) :
    SameCommand s { s with host := host, sched := sched, replies := replies } :=
  ⟨hb, rfl, rfl, rfl, rfl, rfl, rfl, fun _ => ⟨rfl, rfl⟩⟩

theorem engineInv_bookkeeping (h : EngineInv s) (host : List HostOp) (sched : List Turn) (replies : List Reply) :
    EngineInv { s with host := host, sched := sched, replies := replies } :=
  ⟨h.ksWords, h.bcState⟩

/-! ### One engine step -/

/-- A KS engine step stores the next word of `ExpandKey(KEYBUF)`, the last one completes it (R82). -/
theorem ksStep_advances (hc : ControlInv s) (he : EngineInv s) (hb : s.busy = true) (ho : s.op = .ks) :
    ∃ t, ksStep s = .next t ∧ t.sched = s.sched ∧ Advances s t := by
  obtain ⟨h4, h43, -, -⟩ := hc.ksRunning hb ho
  have hk : HasKeyWords s.keybuf s.ekmem s.widx.toNat := he.ksWords hb ho
  have hnext := hk.storeWord_succ ⟨s.widx.toNat, by omega⟩
  have hword := hk.ksWord_eq ⟨s.widx.toNat, h4, h43⟩
  by_cases hlt : s.widx.toNat < 43
  · have hw : (s.widx + 1#6).toNat = s.widx.toNat + 1 := by bv_omega
    refine ⟨_, hword ▸ ksStep_of_lt_last ⟨h4, h43⟩ hlt, by simp, .inr ⟨?same, ?words, ?state⟩⟩
    case same => constructor <;> simp [hb, ho]
    case words =>
      intro _ _
      simp only [State.ksNext_keybuf, State.ksNext_ekmem, State.ksNext_widx, hw]
      exact hnext
    case state => intro _ hbc; simp [ho] at hbc
  · simp only [show s.widx.toNat + 1 = 44 by omega] at hnext
    refine ⟨_, hword ▸ ksStep_of_last ⟨h4, h43⟩ hlt, by simp, .inl ?_⟩
    constructor <;> simp [hc.busyErr hb, ho, hnext.eq_expandKey, expandedKeyLength]

/-- A BC engine step takes `ST` to its next value in `Cipher(INBUF, EKMEM)`, the last one completes it (R96). -/
theorem bcStep_advances (hc : ControlInv s) (he : EngineInv s) (hb : s.busy = true) (ho : s.op = .bc) :
    ∃ t, bcStep s = .next t ∧ t.sched = s.sched ∧ Advances s t := by
  obtain ⟨h10, -, -, -⟩ := hc.bcRunning hb ho
  have hst := he.bcState hb ho
  rcases Nat.lt_or_eq_of_le h10 with hlt | hlast
  · have hw : (s.rnd + 1#4).toNat = s.rnd.toNat + 1 := by bv_omega
    refine ⟨_, bcStep_of_stateBefore (by omega) hst, by simp, .inr ⟨?same, ?words, ?state⟩⟩
    case same => constructor <;> simp [hb, ho]
    case words => intro _ hks; simp [ho] at hks
    case state => intro _ _; simp [hw]
  · refine ⟨_, bcStep_of_last hlast, by simp, .inl ?_⟩
    constructor <;> simp [hc.busyErr hb, ho, hst, hlast, finalRound_stateBefore]

theorem engineStep_advances (h : Inv s) (hb : s.busy = true) :
    ∃ t, engineStep s = .next t ∧ t.sched = s.sched ∧ Advances s t := by
  cases ho : s.op with
  | ks => rw [engineStep_of_ks ho]; exact ksStep_advances h.control h.engine hb ho
  | bc => rw [engineStep_of_bc ho]; exact bcStep_advances h.control h.engine hb ho

/-! ### One step of a busy core -/

/-- A busy core serves a read of `STATUS` or a `POLL` and nothing else (R36), and the command does not see it. -/
theorem serve_busy_advances {o : HostOp} (he : EngineInv s) (hb : s.busy = true) (hd : held s o = false) :
    ∃ t, serve s o = .next t ∧ t.sched = s.sched ∧ Advances s t := by
  cases o with
  | read a =>
    obtain rfl : a = statusOffset := by simpa [held, hb] using hd
    exact ⟨_, serve_read_status s, rfl, .inr ⟨sameCommand_bookkeeping hb _ _ _, engineInv_bookkeeping he _ _ _⟩⟩
  | write a v => simp [held, hb] at hd
  | poll => exact ⟨_, if_pos hb, rfl, .inr ⟨sameCommand_bookkeeping hb _ _ _, engineInv_bookkeeping he _ _ _⟩⟩

/-- A step of a busy core, unless a reset comes: a response to a `STATUS` read or an engine step. -/
theorem step_busy_advances (h : Inv s) (hb : s.busy = true) (hn : notResetNext s = true) :
    ∃ t, step s = .next t ∧ t.sched = s.sched.tail ∧ Advances s t := by
  have hsame : SameCommand s s.dropTurn := sameCommand_bookkeeping hb _ _ _
  have hinv : Inv s.dropTurn := ⟨controlInv_dropTurn h.control, engineInv_bookkeeping h.engine _ _ _⟩
  rcases step_eq s with ⟨d, ts, hs, -⟩ | ⟨-, -, hs⟩ | ⟨o, rest, -, hd, -, hs⟩ | ⟨hidle, -⟩
  · exact absurd hs ((notResetNext_iff s).mp hn d ts)
  · obtain ⟨t, ht, hsched, ha⟩ := engineStep_advances hinv hb
    exact ⟨t, hs.trans ht, hsched, hsame.advances ha⟩
  · obtain ⟨t, ht, hsched, ha⟩ := serve_busy_advances (s := s.dropTurn) hinv.engine hb (held_dropTurn s o ▸ hd)
    exact ⟨t, hs.trans ht, hsched, hsame.advances ha⟩
  · simp [hb] at hidle

/-! ### The rest of the command -/

/-- With no turn settled the engine runs to its end, 40 steps at most (R83, R97, log 3). -/
theorem run_completes_of_nil (h : Inv s) (hb : s.busy = true) (hs : s.sched = []) :
    ∃ n t, n ≤ 40 ∧ Host.Core.run Sys2Proof.core n s = .next t ∧ Completes s t := by
  obtain ⟨hc, he⟩ := h
  cases ho : s.op with
  | ks =>
    obtain ⟨h4, h43, -, -⟩ := hc.ksRunning hb ho
    refine ⟨43 - s.widx.toNat + 1, _, by omega, run_ks _ s hs hb ho h4 (by omega) (he.ksWords hb ho), ?_⟩
    constructor <;> simp [hc.busyErr hb, ho, expandedKeyLength]
  | bc =>
    obtain ⟨h10, -, -, -⟩ := hc.bcRunning hb ho
    refine ⟨10 - s.rnd.toNat + 1, _, by omega, run_bc _ s s.inbuf hs hb ho (by omega) (he.bcState hb ho), ?_⟩
    constructor <;> simp [hc.busyErr hb, ho]

theorem noReset_cons {x : Turn} {ts : List Turn} (h : noReset (x :: ts) = true) :
    (∀ d, x ≠ .reset d) ∧ noReset ts = true := by
  cases x <;> simp_all [noReset]

/-- Whatever the turns settled, as long as none is a reset, the command completes within them and 40 more (R135, log 3). -/
theorem run_completes (ts : List Turn) (s : State) (hs : s.sched = ts) (h : Inv s) (hb : s.busy = true)
    (hn : noReset ts = true) :
    ∃ n t, n ≤ ts.length + 40 ∧ Host.Core.run Sys2Proof.core n s = .next t ∧ Completes s t := by
  induction ts generalizing s with
  | nil =>
    obtain ⟨n, t, hle, hrun, hdone⟩ := run_completes_of_nil h hb hs
    exact ⟨n, t, by simpa using hle, hrun, hdone⟩
  | cons x ts ih =>
    obtain ⟨hx, hts⟩ := noReset_cons hn
    have hnext : notResetNext s = true := (notResetNext_iff s).mpr fun d _ hd => hx d (List.cons.inj (hs.symm.trans hd)).1
    obtain ⟨t, hstep, hsched, hdone | ⟨hsame, he⟩⟩ := step_busy_advances h hb hnext
    · exact ⟨1, t, by omega, run_succ hstep, hdone⟩
    · have hinv : Inv t := ⟨Proofs.stepKeepsTheControlInvariant s t h.control hstep, he⟩
      obtain ⟨n, u, hle, hrun, hdone⟩ := ih t (by rw [hsched, hs]; rfl) hinv hsame.busy hts
      exact ⟨n + 1, u, by simp only [List.length_cons]; omega, (run_succ hstep).trans hrun, hsame.completes hdone⟩

end Sys2Proof.Machine
end

section
/-! PROOFS. A running command always completes (R119, R135). -/

namespace Sys2Proof.Proofs

open Sys2Proof.Machine Sys2Proof.Safety

/-- Settles O57, by induction on the schedule: each turn settled is a `STATUS` read, which the command does not see, or an
engine step; after them the engine runs alone. -/
theorem runningCommandAlwaysCompletes : Obligations.RunningCommandAlwaysCompletes := by
  intro s h hb hn
  obtain ⟨n, t, hle, hrun, hdone⟩ := run_completes s.sched s rfl h hb hn
  exact ⟨n, t, hle, hrun, hdone.idle, hdone.noError, hdone.keybuf, hdone.inbuf, hdone.klen, hdone.blen, hdone.expanded,
    hdone.encrypted⟩

end Sys2Proof.Proofs
end

section
/-! SUPPORT. The encoding, function by function: the decoder against the encoder (R50, R51), the expansion of `PUT` (R58), and
what serving `POLL` answers (R58). -/

namespace Sys2Proof

theorem decodeCode_eq_some_iff {v : Byte} {i : Instr} : decodeCode v = some i ↔ v = i.code := by
  rcases Machine.decodeCode_cases v with ⟨rfl, h⟩ | ⟨rfl, h⟩ | ⟨h1, h2, h⟩
  · cases i <;> simp [h, Instr.code]
  · cases i <;> simp [h, Instr.code]
  · cases i <;> simp [h, h1, h2, Instr.code]

theorem decodeCode_eq_none_iff {v : Byte} : decodeCode v = none ↔ v ≠ 0x01#8 ∧ v ≠ 0x02#8 := by
  rcases Machine.decodeCode_cases v with ⟨rfl, h⟩ | ⟨rfl, h⟩ | ⟨h1, h2, h⟩
  · simp [h]
  · simp [h]
  · simp [h, h1, h2]

theorem decode_cons_of_some {v : Byte} {i : Instr} (h : decodeCode v = some i) (bs : List Byte) :
    decode (v :: bs) = .command i bs := by
  simp [decode, h]

theorem decode_cons_of_none {v : Byte} (h : decodeCode v = none) (bs : List Byte) :
    decode (v :: bs) = .reserved v bs := by
  simp [decode, h]

/-- The decoder undoes the encoder, whatever follows (R50). -/
theorem decode_encode_append (i : Instr) (rest : List Byte) : decode (encode i ++ rest) = .command i rest :=
  decode_cons_of_some (decodeCode_eq_some_iff.mpr rfl) rest

/-- Only the encoding of a command decodes to it (R51). -/
theorem eq_encode_append_of_decode {bs rest : List Byte} {i : Instr} (h : decode bs = .command i rest) :
    bs = encode i ++ rest := by
  cases bs with
  | nil => cases h
  | cons v tail =>
    cases hv : decodeCode v with
    | none => cases (decode_cons_of_none hv tail).symm.trans h
    | some j =>
      obtain ⟨rfl, rfl⟩ := Decoded.command.inj ((decode_cons_of_some hv tail).symm.trans h)
      rw [decodeCode_eq_some_iff.mp hv]
      rfl

end Sys2Proof

namespace Sys2Proof.Machine

theorem putOps_length (a : Nat) (h : List Nat) : (putOps a h).length = h.length := by
  induction h generalizing a with
  | nil => rfl
  | cons v h ih => simp [putOps, ih]

theorem putOps_getElem? (a : Nat) (h : List Nat) (k : Nat) (hk : k < h.length) :
    (putOps a h)[k]? = some (writeOp (a + k) h[k]) := by
  induction h generalizing a k with
  | nil => simp at hk
  | cons v h ih =>
    cases k with
    | zero => rfl
    | succ k =>
      have htail := ih (a + 1) k (by simpa using hk)
      rwa [Nat.add_right_comm] at htail

/-- Every write of a well-formed `PUT` has an offset in the host space and a byte of data (R56, R58). -/
theorem put_wellFormed_bounds {a k : Nat} {h : List Nat} (hwf : (HostStmt.put a h).wellFormed = true) (hk : k < h.length) :
    a + k < 2 ^ 9 ∧ h[k] < 2 ^ 8 := by
  simp only [HostStmt.wellFormed, rangeOk, byteOk, Bool.and_eq_true, decide_eq_true_eq, List.all_eq_true] at hwf
  obtain ⟨hrange, hbytes⟩ := hwf
  have hbyte := hbytes h[k] (List.getElem_mem hk)
  omega

theorem issueCommand_of_none {s : State} {v : Byte} (h : decodeCode v = none) : issueCommand s v = acceptReserved s := by
  simp [issueCommand, h]

theorem serve_poll_busy {s : State} (hb : s.busy = true) : serve s .poll = .next (s.reply (.data 0x01#8)) := by
  simp [serve, servePoll, statusByte_eq, hb]

theorem serve_poll_idle {s : State} (hb : s.busy = false) :
    serve s .poll = .next (s.dropHost.reply (.data 0x00#8)) := by
  simp [serve, servePoll, statusByte_eq, hb]

end Sys2Proof.Machine
end

section
/-! PROOFS. The encoding: the opcode map and its inverse (R50, R51, R54), and the pseudo-statements `PUT` and `POLL` (R58). -/

namespace Sys2Proof.Proofs

open Sys2Proof.Machine Sys2Proof.Safety

/-- Settles O2: the decoder undoes the encoder, and what decodes to a command begins with its one byte. -/
theorem decodeAgreesWithEncode : Obligations.DecodeAgreesWithEncode :=
  fun _ rest i => ⟨eq_encode_append_of_decode, fun h => h ▸ decode_encode_append i rest⟩

/-- Settles O5: write `k` of the expansion is `writeOp (a + k) h[k]`, whose numbers fit their widths in a well-formed `PUT`. -/
theorem putWritesItsBytesInOrder : Obligations.PutWritesItsBytesInOrder := by
  refine fun a h hwf => ⟨putOps_length a h, fun k hk => ?_⟩
  obtain ⟨hoffset, hbyte⟩ := put_wellFormed_bounds hwf hk
  exact ⟨_, _, putOps_getElem? a h k hk, Nat.mod_eq_of_lt hoffset, Nat.mod_eq_of_lt hbyte⟩

/-- Settles O1: the two rows decode to their commands, every other byte is in the reserved row. -/
theorem opcodeMapDecodes : Obligations.OpcodeMapDecodes :=
  ⟨decode_encode_append .expand [], decode_encode_append .encrypt [], by decide, by decide,
    fun _ h1 h2 => decode_cons_of_none (decodeCode_eq_none_iff.mpr ⟨h1, h2⟩) []⟩

/-- Settles O24: no command has the code, so the write to `CMD` fails with the one cause `BADCMD`. -/
theorem reservedCodeOnlySetsBadcmd : Obligations.ReservedCodeOnlySetsBadcmd := by
  intro s v rest hb hh hn h1 h2
  have hcode : decodeCode v = none := decodeCode_eq_none_iff.mpr ⟨h1, h2⟩
  rw [step_command hb hh hn, respond_eq hh, issueCommand_of_none hcode]
  exact acceptReserved_idle hb

/-- Settles O40: `POLL` is never held, so the host's turn serves its next read of `STATUS`. -/
theorem pollReadsStatusUntilIdle : Obligations.PollReadsStatusUntilIdle := by
  refine fun s rest ts hs hh => ⟨fun hb => ?busy, fun hb => ?idle⟩
  case busy =>
    rw [step_of_host_turn hs hh rfl, serve_poll_busy (s := s.dropTurn) hb, State.reply, State.dropTurn, hs, List.tail_cons]
  case idle =>
    rw [step_of_host_turn hs hh rfl, serve_poll_idle (s := s.dropTurn) hb, respond_eq hh, hs, List.tail_cons]

end Sys2Proof.Proofs
end

section
/-! SUPPORT. The arithmetic of GF(2^8) (R61 to R65). `gmul` is additive in both operands and commutes with `xtime` in the
first; since every byte is built from 0x01 by doubling and adding, the laws of the product follow by induction on a byte. -/

namespace Sys2Proof.Machine

/-- What a byte contributes under the xor of two conditions is the xor of its two contributions. -/
theorem ite_bool_xor (p q : Bool) (x : Byte) :
    (if p ^^ q then x else 0x00#8) = (if p then x else 0x00#8) ^^^ (if q then x else 0x00#8) := by
  cases p <;> cases q <;> simp

/-- Doubling is linear: each summand brings its own reduction (R62). -/
theorem xtime_xor (a b : Byte) : xtime (a ^^^ b) = xtime a ^^^ xtime b := by
  simp only [xtime, BitVec.shiftLeft_xor_distrib, BitVec.getLsbD_xor, ite_bool_xor]
  ac_rfl

@[simp] theorem xtime_zero : xtime 0x00#8 = 0x00#8 := by decide

/-- The carry out of the nine-bit shift is bit 7 of the operand (R62). -/
theorem xtime_eq_nineBit (a : Byte) : xtime a = xtimeNineBit a := by
  have hcarry : (a.setWidth 9 <<< 1).getLsbD 8 = a.getLsbD 7 := by simp
  have hlow : (a.setWidth 9 <<< 1).setWidth 8 = a <<< 1 := by ext i hi; simp
  simp only [xtime, xtimeNineBit, hcarry]
  cases a.getLsbD 7 <;> simp [hlow]

/-- The xor of the `f k` over those `k` of a list at which `b` has a 1: the sum of R63. -/
def bitSum (f : Nat → Byte) (b : Byte) (ks : List Nat) : Byte :=
  ks.foldr (fun k p => (if b.getLsbD k then f k else 0x00#8) ^^^ p) 0x00#8

theorem bitSum_cons (f : Nat → Byte) (b : Byte) (k : Nat) (ks : List Nat) :
    bitSum f b (k :: ks) = (if b.getLsbD k then f k else 0x00#8) ^^^ bitSum f b ks := rfl

theorem bitSum_xor (f : Nat → Byte) (b c : Byte) (ks : List Nat) :
    bitSum f (b ^^^ c) ks = bitSum f b ks ^^^ bitSum f c ks := by
  induction ks with
  | nil => exact BitVec.xor_self.symm
  | cons k ks ih =>
    simp only [bitSum_cons, ih, BitVec.getLsbD_xor, ite_bool_xor]
    ac_rfl

theorem bitSum_xor_fun (f g : Nat → Byte) (b : Byte) (ks : List Nat) :
    bitSum (fun k => f k ^^^ g k) b ks = bitSum f b ks ^^^ bitSum g b ks := by
  induction ks with
  | nil => exact BitVec.xor_self.symm
  | cons k ks ih =>
    simp only [bitSum_cons, ih]
    cases b.getLsbD k with
    | false => simp
    | true => simp only [↓reduceIte]; ac_rfl

theorem xtime_bitSum (f : Nat → Byte) (b : Byte) (ks : List Nat) :
    xtime (bitSum f b ks) = bitSum (fun k => xtime (f k)) b ks := by
  induction ks with
  | nil => exact xtime_zero
  | cons k ks ih => cases hb : b.getLsbD k <;> simp [bitSum_cons, xtime_xor, ih, hb]

theorem doublings_xor (a b : Byte) (n : Nat) : doublings (a ^^^ b) n = doublings a n ^^^ doublings b n := by
  induction n with
  | zero => rfl
  | succ n ih => simp [doublings, ih, xtime_xor]

theorem doublings_xtime (a : Byte) (n : Nat) : doublings (xtime a) n = xtime (doublings a n) := by
  induction n with
  | zero => rfl
  | succ n ih => simp [doublings, ih]

/-- The loop of R63 keeps the doubled operand in its variable `a` and adds to `p` the terms from index `k` on. -/
theorem gmulLoop_eq (a b : Byte) (n k : Nat) (p : Byte) :
    gmulLoop b n k p (doublings a k) = p ^^^ bitSum (doublings a) b (List.range' k n) := by
  induction n generalizing k p with
  | zero => simp [gmulLoop, bitSum]
  | succ n ih =>
    rw [gmulLoop, ← doublings, ih, List.range'_succ, bitSum_cons]
    cases b.getLsbD k <;> simp [BitVec.xor_assoc]

/-- The second form of R63. -/
theorem gmul_eq_bitSum (a b : Byte) : gmul a b = bitSum (doublings a) b (List.range 8) := by
  rw [List.range_eq_range', ← BitVec.zero_xor (x := bitSum _ _ _)]
  exact gmulLoop_eq a b 8 0 0x00#8

theorem xor_gmul (a b c : Byte) : gmul (a ^^^ b) c = gmul a c ^^^ gmul b c := by
  simp only [gmul_eq_bitSum, ← bitSum_xor_fun, ← doublings_xor]

theorem gmul_xor (a b c : Byte) : gmul a (b ^^^ c) = gmul a b ^^^ gmul a c := by
  simp only [gmul_eq_bitSum, bitSum_xor]

theorem xtime_gmul (a b : Byte) : gmul (xtime a) b = xtime (gmul a b) := by
  simp only [gmul_eq_bitSum, xtime_bitSum, ← doublings_xtime]

@[simp] theorem gmul_zero (a : Byte) : gmul a 0x00#8 = 0x00#8 := by
  simp [gmul, gmulLoop]

@[simp] theorem gmul_one (a : Byte) : gmul a 0x01#8 = a := by
  simp [gmul, gmulLoop]

@[simp] theorem one_gmul : ∀ a : Byte, gmul 0x01#8 a = a := by decide +kernel

/-- Every byte is built from 0x01 by doubling and adding: it is the sum of the doublings of 0x01 at its bits. -/
theorem byte_induction {P : Byte → Prop} (zero : P 0x00#8) (one : P 0x01#8) (double : ∀ a, P a → P (xtime a))
    (add : ∀ a b, P a → P b → P (a ^^^ b)) (a : Byte) : P a := by
  have hdoublings (k : Nat) : P (doublings 0x01#8 k) := by
    induction k with
    | zero => exact one
    | succ k ih => exact double _ ih
  have hsum (ks : List Nat) : P (bitSum (doublings 0x01#8) a ks) := by
    induction ks with
    | nil => exact zero
    | cons k ks ih => exact add _ _ (by split; exacts [hdoublings k, zero]) ih
  rw [← one_gmul a, gmul_eq_bitSum]
  exact hsum _

@[simp] theorem zero_gmul (a : Byte) : gmul 0x00#8 a = 0x00#8 := by
  simpa using xor_gmul 0x00#8 0x00#8 a

theorem gmul_xtime (a b : Byte) : gmul a (xtime b) = xtime (gmul a b) := by
  induction a using byte_induction with
  | zero => simp
  | one => simp
  | double a ih => rw [xtime_gmul, ih, xtime_gmul]
  | add a c iha ihc => rw [xor_gmul, iha, ihc, xor_gmul, xtime_xor]

theorem gmul_comm (a b : Byte) : gmul a b = gmul b a := by
  induction a using byte_induction with
  | zero => simp
  | one => simp
  | double a ih => rw [xtime_gmul, ih, gmul_xtime]
  | add a c iha ihc => rw [xor_gmul, iha, ihc, gmul_xor]

theorem gmul_assoc (a b c : Byte) : gmul (gmul a b) c = gmul a (gmul b c) := by
  induction a using byte_induction with
  | zero => simp
  | one => simp
  | double a ih => simp only [xtime_gmul, ih]
  | add a d iha ihd => simp only [xor_gmul, iha, ihd]

theorem two_gmul (a : Byte) : gmul 0x02#8 a = xtime a := by
  rw [show (0x02#8 : Byte) = xtime 0x01#8 by decide, xtime_gmul, one_gmul]

theorem three_gmul (a : Byte) : gmul 0x03#8 a = xtime a ^^^ a := by
  rw [show (0x03#8 : Byte) = 0x02#8 ^^^ 0x01#8 by decide, xor_gmul, two_gmul, one_gmul]

/-- 0x8D is the inverse of 0x02, so doubling can be undone. -/
theorem gmul_xtime_half (a : Byte) : gmul 0x8D#8 (xtime a) = a := by
  rw [← two_gmul, ← gmul_assoc, show gmul 0x8D#8 0x02#8 = 0x01#8 by decide, one_gmul]

theorem xtime_gmul_half (a : Byte) : xtime (gmul 0x8D#8 a) = a := by
  rw [← gmul_xtime, gmul_xtime_half]

/-! Powers, and the inverse as the power 254. -/

theorem gpow_succ (a : Byte) (n : Nat) : gpow a (n + 1) = gmul a (gpow a n) := rfl

theorem gpow_add (a : Byte) (m n : Nat) : gpow a (m + n) = gmul (gpow a m) (gpow a n) := by
  induction m with
  | zero => simp [gpow]
  | succ m ih => rw [Nat.succ_add, gpow_succ, ih, gpow_succ, gmul_assoc]

theorem gpow_two_mul (a : Byte) (n : Nat) : gpow a (2 * n) = gmul (gpow a n) (gpow a n) := by
  rw [Nat.two_mul, gpow_add]

theorem one_gpow (n : Nat) : gpow 0x01#8 n = 0x01#8 := by
  induction n with
  | zero => rfl
  | succ n ih => rw [gpow_succ, ih, gmul_one]

theorem gmul_gpow (a b : Byte) (n : Nat) : gpow (gmul a b) n = gmul (gpow a n) (gpow b n) := by
  induction n with
  | zero => exact (gmul_one _).symm
  | succ n ih =>
    calc gmul (gmul a b) (gpow (gmul a b) n)
        = gmul a (gmul (gmul b (gpow a n)) (gpow b n)) := by rw [ih, gmul_assoc, gmul_assoc]
      _ = gmul (gmul a (gpow a n)) (gmul b (gpow b n)) := by rw [gmul_comm b, gmul_assoc, gmul_assoc]

/-- The products that `ginv` multiplies are the powers 128 down to 2 (R65, log 13). -/
theorem ginv_eq_gpow (a : Byte) : ginv a = gpow a 254 := by
  have h2 : gpow a 2 = gmul a a := by simp [gpow]
  rw [show 254 = 128 + (64 + (32 + (16 + (8 + (4 + 2))))) from rfl]
  simp only [gpow_add, ginv, ← h2, ← gpow_two_mul, Nat.reduceMul]

/-- Squaring is additive: the two mixed products are equal and cancel. -/
theorem gmul_self_xor (a b : Byte) : gmul (a ^^^ b) (a ^^^ b) = gmul a a ^^^ gmul b b := by
  rw [xor_gmul, gmul_xor, gmul_xor, gmul_comm b a]
  simp [BitVec.xor_assoc]

theorem xor_gpow_two_pow (a b : Byte) (n : Nat) : gpow (a ^^^ b) (2 ^ n) = gpow a (2 ^ n) ^^^ gpow b (2 ^ n) := by
  induction n with
  | zero => simp [gpow]
  | succ n ih => simp only [Nat.pow_succ', gpow_two_mul, ih, gmul_self_xor]

/-- The power 256 is additive and multiplicative and fixes 0x02, so it fixes every byte. -/
theorem gpow_256 (a : Byte) : gpow a (2 ^ 8) = a := by
  induction a using byte_induction with
  | zero => exact zero_gmul _
  | one => exact one_gpow _
  | double a ih =>
    have htwo : gpow 0x02#8 (2 ^ 8) = 0x02#8 := by
      rw [show 2 ^ 8 = 254 + 1 + 1 from rfl, gpow_succ, gpow_succ, ← ginv_eq_gpow]; decide
    rw [← two_gmul, gmul_gpow, ih, htwo]
  | add a b iha ihb => rw [xor_gpow_two_pow, iha, ihb]

end Sys2Proof.Machine
end

section
/-! SUPPORT. The inverse, the affine transform and the S-box (R65 to R69). The printed table supplies an inverse of every byte
other than 0x00 by one check of 255 products; what `ginv` and `sbox` are follows from the laws of the product. -/

namespace Sys2Proof.Machine

/-- The byte that the printed table has for `a`. -/
def tableEntry (a : Byte) : Byte := sboxTable.getD a.toNat 0x00#8

theorem sboxTable_length : sboxTable.length = 256 := by decide +kernel

theorem sboxTable_getElem? (a : Byte) : sboxTable[a.toNat]? = some (tableEntry a) := by
  have hlt : a.toNat < sboxTable.length := sboxTable_length ▸ a.isLt
  simp [tableEntry, List.getD_eq_getElem?_getD, hlt]

theorem getLsbD_rotateLeft_byte (a : Byte) {r i : Nat} (hr : r < 8) (hi : i < 8) :
    (a.rotateLeft r).getLsbD i = a.getLsbD ((i + (8 - r)) % 8) := by
  rw [BitVec.getLsbD_rotateLeft, Nat.mod_eq_of_lt hr]
  by_cases h : i < r
  · have hwrap : (i + (8 - r)) % 8 = 8 - r + i := by omega
    simp [h, hwrap]
  · have hshift : (i + (8 - r)) % 8 = i - r := by omega
    simp [h, hi, hshift]

/-- The bitwise form of R66. -/
theorem getLsbD_affine (a : Byte) (i : Nat) (hi : i < 8) : (affine a).getLsbD i =
    (a.getLsbD i ^^ a.getLsbD ((i + 4) % 8) ^^ a.getLsbD ((i + 5) % 8) ^^ a.getLsbD ((i + 6) % 8) ^^
      a.getLsbD ((i + 7) % 8) ^^ (0x63#8).getLsbD i) := by
  simp only [affine, BitVec.getLsbD_xor, getLsbD_rotateLeft_byte a _ hi, Nat.reduceLT, Nat.reduceSub,
    Bool.xor_assoc, Bool.xor_comm, Bool.xor_left_comm]

theorem rotateLeft_xor (a b : Byte) (r : Nat) : (a ^^^ b).rotateLeft r = a.rotateLeft r ^^^ b.rotateLeft r := by
  ext i hi
  simp only [BitVec.getElem_rotateLeft, BitVec.getElem_xor]
  split <;> rfl

theorem affine_xor (a b : Byte) : affine (a ^^^ b) = affine a ^^^ affine b ^^^ 0x63#8 := by
  have hconst : (0x63#8 : Byte) = 0x63#8 ^^^ 0x63#8 ^^^ 0x63#8 := by decide
  simp only [affine, rotateLeft_xor]
  nth_rewrite 1 [hconst]
  ac_rfl

@[simp] theorem invAffine_affine : ∀ a : Byte, invAffine (affine a) = a := by decide +kernel

@[simp] theorem affine_invAffine (y : Byte) : affine (invAffine y) = y := by
  obtain ⟨a, rfl⟩ := Finite.surjective_of_injective (Function.LeftInverse.injective invAffine_affine) y
  rw [invAffine_affine]

/-- Every byte but 0x00 is invertible, by the inverse that the printed table gives (R64, R68). -/
theorem gmul_invAffine_tableEntry : ∀ a : Byte, a ≠ 0x00#8 → gmul a (invAffine (tableEntry a)) = 0x01#8 := by decide +kernel

/-- Cancel one factor of `a^256 = a` by an inverse of `a`. -/
theorem gmul_ginv {a : Byte} (ha : a ≠ 0x00#8) : gmul a (ginv a) = 0x01#8 := by
  have hinv := gmul_invAffine_tableEntry a ha
  generalize invAffine (tableEntry a) = b at hinv
  calc gmul a (ginv a)
      = gmul (gpow a 255) (gmul a b) := by rw [hinv, gmul_one, gpow_succ, ← ginv_eq_gpow]
    _ = gmul (gpow a (2 ^ 8)) b := by rw [← gmul_assoc, gmul_comm _ a]; rfl
    _ = 0x01#8 := by rw [gpow_256, hinv]

theorem gmul_eq_one_iff {a : Byte} (ha : a ≠ 0x00#8) (b : Byte) : gmul a b = 0x01#8 ↔ b = ginv a where
  mp h := by rw [← gmul_one (ginv a), ← h, ← gmul_assoc, gmul_comm _ a, gmul_ginv ha, one_gmul]
  mpr h := h ▸ gmul_ginv ha

@[simp] theorem ginv_zero : ginv 0x00#8 = 0x00#8 := zero_gmul _

theorem ginv_ne_zero {a : Byte} (ha : a ≠ 0x00#8) : ginv a ≠ 0x00#8 := by
  intro h
  have hone := gmul_ginv ha
  rw [h, gmul_zero] at hone
  exact absurd hone (by decide)

@[simp] theorem ginv_ginv (a : Byte) : ginv (ginv a) = a := by
  by_cases ha : a = 0x00#8
  · simp [ha]
  · have hsymm : gmul (ginv a) a = 0x01#8 := by rw [gmul_comm, gmul_ginv ha]
    exact ((gmul_eq_one_iff (ginv_ne_zero ha) a).mp hsymm).symm

theorem ginv_eq_of_gmul {a b : Byte} (ha : a ≠ 0x00#8) (h : gmul a b = 0x01#8) : ginv a = b :=
  ((gmul_eq_one_iff ha b).mp h).symm

@[simp] theorem invSbox_sbox (a : Byte) : invSbox (sbox a) = a := by
  simp [invSbox, sbox]

@[simp] theorem sbox_invSbox (y : Byte) : sbox (invSbox y) = y := by
  simp [invSbox, sbox]

/-- The printed table is the function (R68). -/
theorem sbox_eq_tableEntry (a : Byte) : sbox a = tableEntry a := by
  by_cases ha : a = 0x00#8
  · rw [ha, sbox, ginv_zero]; decide
  · rw [sbox, ginv_eq_of_gmul ha (gmul_invAffine_tableEntry a ha), affine_invAffine]

/-- `sbox a = c` would make the preimage of `c` under `affine` an inverse of `a`, so a product other than 0x01 excludes it. -/
theorem sbox_ne_of_gmul {a c : Byte} (ha : a ≠ 0x00#8) (h : gmul a (invAffine c) ≠ 0x01#8) : sbox a ≠ c := by
  rintro rfl
  rw [sbox, invAffine_affine, gmul_ginv ha] at h
  exact h rfl

/-- The printed inverse table, put through the printed table, gives the bytes in order. -/
theorem invSboxTable_map_tableEntry : invSboxTable.map tableEntry = (List.range 256).map (BitVec.ofNat 8) := by decide +kernel

/-- The printed inverse table is the function (R69). -/
theorem invSboxTable_eq_map : invSboxTable = (List.range 256).map (fun n => invSbox (BitVec.ofNat 8 n)) := by
  have hmap := congrArg (List.map invSbox) invSboxTable_map_tableEntry
  simpa [Function.comp_def, ← sbox_eq_tableEntry] using hmap

theorem invSboxTable_getElem? (y : Byte) : invSboxTable[y.toNat]? = some (invSbox y) := by
  simp [invSboxTable_eq_map, List.getElem?_range y.isLt]

end Sys2Proof.Machine
end

section
/-! PROOFS. The GF(2^8) unit (R61 to R72). -/

namespace Sys2Proof.Proofs

open Sys2Proof.Machine

/-- Settles O6: the laws of xor. -/
theorem gaddIsXorGroup : Obligations.GaddIsXorGroup :=
  ⟨fun a b => ⟨rfl, BitVec.xor_comm a b⟩, BitVec.xor_assoc, fun _ => ⟨BitVec.xor_zero, BitVec.xor_self⟩, by decide⟩

/-- Settles O7: doubling is undone by the product with 0x8D, so it is a permutation. -/
theorem xtimeIsLinearPermutation : Obligations.XtimeIsLinearPermutation := by
  refine ⟨xtime_eq_nineBit, xtime_xor, fun c => ⟨gmul 0x8D#8 c, xtime_gmul_half c, ?unique⟩, by decide⟩
  case unique =>
    rintro b rfl
    exact (gmul_xtime_half b).symm

/-- Settles O8: the loop's invariant from index 0 is the sum; the corner cases are laws of the product. -/
theorem gmulIsXorOfDoublings : Obligations.GmulIsXorOfDoublings :=
  ⟨gmul_eq_bitSum, fun a => ⟨gmul_zero a, zero_gmul a, gmul_one a, (gmul_comm a _).trans (two_gmul a)⟩, by decide⟩

/-- Settles O9: the product's laws by induction on a byte, the inverse by `gmul_eq_one_iff`. -/
theorem bytesFormAField : Obligations.BytesFormAField :=
  ⟨gmul_comm, gmul_assoc, gmul_xor, BitVec.xor_comm, BitVec.xor_assoc, fun a => ⟨BitVec.zero_xor, one_gmul a⟩,
    fun a ha => ⟨ginv a, gmul_ginv ha, fun c => (gmul_eq_one_iff ha c).mp⟩,
    fun a => ⟨one_gmul a, two_gmul a, three_gmul a⟩⟩

/-- Settles O10: an inverse is `ginv` by cancellation, and the examples are inverses by their products. -/
theorem ginvIsTheUniqueInverse : Obligations.GinvIsTheUniqueInverse := by
  refine ⟨ginv_zero, fun _ b ha => gmul_eq_one_iff ha b, fun a => ⟨ginv_eq_gpow a, ginv_ginv a⟩,
    ?_, ?_, ?_, ?_, ?_⟩ <;> exact ginv_eq_of_gmul (by decide) (by decide)

/-- Settles O11: the rotations bit by bit; in the law over xor the three equal constants leave one. -/
theorem affineBitwiseAndInvertible : Obligations.AffineBitwiseAndInvertible :=
  ⟨getLsbD_affine, affine_xor, fun a => ⟨invAffine_affine a, affine_invAffine a⟩, by decide⟩

/-- Settles O12: `invSbox` is a two-sided inverse; no product of `a` with the preimage of `a` or of its complement
under `affine` is 0x01. -/
theorem sboxPermutesWithoutFixedPoint : Obligations.SboxPermutesWithoutFixedPoint := by
  refine ⟨fun _ => rfl, fun c => ⟨invSbox c, sbox_invSbox c, ?unique⟩, ?nofix, ?examples⟩
  case unique =>
    rintro b rfl
    exact (invSbox_sbox b).symm
  case nofix =>
    have hproducts : ∀ a : Byte, gmul a (invAffine a) ≠ 0x01#8 ∧ gmul a (invAffine (a ^^^ 0xFF#8)) ≠ 0x01#8 := by
      decide +kernel
    intro a
    by_cases ha : a = 0x00#8
    · rw [ha, sbox_eq_tableEntry]; decide +kernel
    · exact ⟨sbox_ne_of_gmul ha (hproducts a).1, sbox_ne_of_gmul ha (hproducts a).2⟩
  case examples =>
    simp only [sbox_eq_tableEntry]
    decide +kernel

/-- Settles O13: `sbox_eq_tableEntry`, entry by entry. -/
theorem sboxEqualsPrintedTable : Obligations.SboxEqualsPrintedTable :=
  ⟨sboxTable_length, fun a => sbox_eq_tableEntry a ▸ sboxTable_getElem? a⟩

/-- Settles O14: both transforms are undone in turn; the inverse table leads back through the table. -/
theorem invSboxUndoesSbox : Obligations.InvSboxUndoesSbox :=
  ⟨fun a => ⟨invSbox_sbox a, sbox_invSbox a⟩, by simp [invSboxTable_eq_map], invSboxTable_getElem?⟩

/-- Settles O15: one more doubling for each next index. -/
theorem rconDoublesFromOne : Obligations.RconDoublesFromOne := by
  refine ⟨rfl, fun j h => ?double, by decide⟩
  case double =>
    obtain ⟨k, rfl⟩ := Nat.exists_eq_add_of_le' h.1
    rfl

/-- Settles O16: the rotation moves the four bytes and the substitution acts on each by itself. -/
theorem rotWordAndSubWordCommute : Obligations.RotWordAndSubWordCommute := by
  refine ⟨fun _ _ _ _ => ⟨rfl, rfl⟩, fun t => ⟨rfl, ?four⟩, fun _ => rfl, by decide, ?examples⟩
  case four =>
    ext i hi
    interval_cases i <;> rfl
  case examples =>
    simp only [subWord, sbox_eq_tableEntry]
    decide +kernel

end Sys2Proof.Proofs
end

section
/-! SUPPORT. The key schedule: `ExpandKey` byte by byte (R80), what EXPAND and the engine steps leave in the readable window
(R81, R82, R96), the KS run before its last step (R83), and the partial results that every step keeps. -/

namespace Sys2Proof.Machine

open Sys2Proof.Safety

variable {s t : State}

/-! ### `ExpandKey` -/

/-- Byte `k` of word `i` stands at position `4i + k`. -/
theorem expandKey_get_word (key : Block) (i : Fin 44) (k : Nat) (hk : k < 4) :
    (expandKey key)[4 * i.val + k]'(by omega) = (keyWord key i)[k] := by
  rw [← wordAt_expandKey, wordAt_get]

/-- The first 16 bytes are the key. -/
theorem expandKey_get_first (key : Block) (n : Nat) (h : n < 16) : (expandKey key)[n]'(by omega) = key[n] := by
  have hstored := hasKeyWords_storeKey key (expandKey key) n (by omega) (by omega)
  rwa [storeKey_get, dif_pos h, eq_comm] at hstored

/-! ### The readable window -/

theorem readByte_setErr (e : Byte) {a : Offset} (ha : a ≠ 0x002#9) : (s.setErr e).readByte a = s.readByte a := by
  obtain ⟨-, -, herr, -, -, -⟩ := locate_control (a := a)
  cases hl : locate a with
  | err => exact absurd (herr hl) ha
  | _ => simp [State.readByte, statusByte, hl]

theorem readByte_startExpand {a : Offset} (ha : a ≠ 0x001#9)
    (hkey : ∀ k : Fin 16, (Location.ekmem ⟨k.val, by omega⟩).offset ≠ some a) :
    s.startExpand.readByte a = s.readByte a := by
  obtain ⟨-, hstatus, -, -, -, -⟩ := locate_control (a := a)
  cases hl : locate a with
  | status => exact absurd (hstatus hl) ha
  | ekmem i =>
    have hi : ¬i.val < 16 := fun hi => hkey ⟨i.val, hi⟩ (hl ▸ offset_locate (by simp [hl]))
    simp [State.readByte, hl, storeKey_get, hi]
  | _ => simp [State.readByte, hl]

theorem readByte_ksNext (i : Fin 44) (w : Word) {a : Offset}
    (ha : ¬(0x100 + 4 * i.val ≤ a.toNat ∧ a.toNat < 0x104 + 4 * i.val)) : (s.ksNext i w).readByte a = s.readByte a := by
  cases hl : locate a with
  | ekmem j =>
    have hj : j.val / 4 ≠ i.val := by have := locate_ekmem hl; omega
    simp [State.readByte, hl, storeWord_get_other _ _ _ _ _ hj]
  | _ => simp [State.readByte, statusByte, hl]

/-- The last KS step is seen where the others are, at `STATUS` and at `EKLEN`. -/
theorem readByte_ksLast (i : Fin 44) (w : Word) {a : Offset} (ha1 : a ≠ 0x001#9) (ha6 : a ≠ 0x006#9) :
    (s.ksLast i w).readByte a = (s.ksNext i w).readByte a := by
  obtain ⟨-, hstatus, -, -, -, heklen⟩ := locate_control (a := a)
  cases hl : locate a with
  | status => exact absurd (hstatus hl) ha1
  | eklen => exact absurd (heklen hl) ha6
  | _ => simp [State.readByte, hl]

theorem readByte_bcNext (b : Block) (a : Offset) : (s.bcNext b).readByte a = s.readByte a :=
  readByte_congr a rfl rfl rfl rfl rfl rfl rfl rfl rfl

theorem readByte_bcLast (b : Block) {a : Offset} (ha1 : a ≠ 0x001#9)
    (hout : ¬(0x030 ≤ a.toNat ∧ a.toNat ≤ 0x03F)) : (s.bcLast b).readByte a = s.readByte a := by
  obtain ⟨-, hstatus, -, -, -, -⟩ := locate_control (a := a)
  cases hl : locate a with
  | status => exact absurd (hstatus hl) ha1
  | outbuf i => have := locate_outbuf hl; omega
  | _ => simp [State.readByte, hl]

/-! ### EXPAND -/

theorem expandErrors_of_klen_ne (hk : s.klen ≠ 16#8) : expandErrors s = 0x01#8 := by
  rw [expandErrors_eq, if_neg hk]

theorem exec_expand_of_klen (hb : s.busy = false) (hk : s.klen = 16#8) :
    exec .expand s = .next (s.setErr 0x00#8).startExpand :=
  acceptCommand_start State.startExpand hb ((expandErrors_eq_zero_iff s).mpr hk)

theorem exec_expand_of_klen_ne (hb : s.busy = false) (hk : s.klen ≠ 16#8) : exec .expand s = .next (s.setErr 0x01#8) :=
  expandErrors_of_klen_ne hk ▸ acceptCommand_fail State.startExpand hb ((expandErrors_eq_zero_iff s).not.mpr hk)

/-- Before its last step KS is busy and answers no transaction (R83). -/
theorem run_ks_busy (n : Nat) (s : State) (hs : s.sched = []) (hb : s.busy = true) (ho : s.op = .ks)
    (h4 : 4 ≤ s.widx.toNat) (hn : s.widx.toNat + n ≤ 43) :
    ∃ t : State, Host.Core.run Sys2Proof.core n s = .next t ∧ t.busy = true ∧ t.host = s.host := by
  induction n generalizing s with
  | zero => exact ⟨s, rfl, hb, rfl⟩
  | succ n ih =>
    have hstep := (step_of_ks hs hb ho).trans (ksStep_of_lt_last ⟨h4, by omega⟩ (by omega))
    have hw : (s.widx + 1#6).toNat = s.widx.toNat + 1 := by bv_omega
    rw [run_succ hstep, ← State.ksNext_host s _ _]
    apply ih
    · simpa using hs
    · simpa using hb
    · simpa using ho
    · rw [State.ksNext_widx, hw]; omega
    · rw [State.ksNext_widx, hw]; omega

/-! ### The partial results -/

theorem engineInv_of_idle (h : s.busy = false) : EngineInv s where
  ksWords hb := by simp [h] at hb
  bcState hb := by simp [h] at hb

/-- From an idle core only a command makes an engine run: KS with the key copied, BC with the block copied (R81, R95). -/
theorem step_idle_engineInv (hb : s.busy = false) (h : step s = .next t) : EngineInv t := by
  cases move_of_step h with
  | expand rest _ _ _ =>
    refine ⟨fun _ _ => ?_, fun _ ho => by simp at ho⟩
    simpa [HasKeyWords] using hasKeyWords_storeKey s.keybuf s.ekmem
  | encrypt rest _ _ _ _ => exact ⟨fun _ ho => by simp at ho, fun _ _ => by simp [stateBefore]⟩
  | _ => exact engineInv_of_idle (by simp [hb])

/-- A busy core completes its command or goes on with it, or a reset makes it idle. -/
theorem step_busy_engineInv (hinv : Inv s) (hb : s.busy = true) (h : step s = .next t) : EngineInv t := by
  by_cases hn : notResetNext s = true
  · obtain ⟨u, hu, -, hdone | ⟨-, hgoes⟩⟩ := step_busy_advances hinv hb hn <;>
      obtain rfl : u = t := Host.Outcome.next.inj (hu.symm.trans h)
    · exact engineInv_of_idle hdone.idle
    · exact hgoes
  · obtain ⟨d, ts, hs⟩ : ∃ d ts, s.sched = .reset d :: ts := by simpa [notResetNext_iff] using hn
    obtain rfl : s.dropTurn.takeReset d = t := Host.Outcome.next.inj (by rw [← h]; simp [step, takeTurn, hs])
    exact engineInv_of_idle rfl

end Sys2Proof.Machine
end

section
/-! PROOFS. The key schedule: `ExpandKey` (R80, R85), EXPAND (R81, R83, R84), the engine steps (R82), and the invariant of the
running engines (R82, R96). -/

namespace Sys2Proof.Proofs

open Sys2Proof.Machine Sys2Proof.Safety

/-- Settles O56: the control part is O55; an idle core starts an engine on a copied operand or none, and a busy one advances
its command. -/
theorem stepKeepsTheEngineInvariant : Obligations.StepKeepsTheEngineInvariant := by
  refine fun s t h hst => ⟨stepKeepsTheControlInvariant s t h.control hst, ?_⟩
  cases hb : s.busy with
  | false => exact step_idle_engineInv hb hst
  | true => exact step_busy_engineInv h hb hst

/-- Settles O17: the recurrence on whole words, read byte by byte. -/
theorem expandKeyFollowsTheRecurrence : Obligations.ExpandKeyFollowsTheRecurrence := by
  refine fun key => ⟨fun n h => expandKey_get_first key n h, fun i k hi hk => ?_⟩
  have hword := congrArg (fun w : Word => w[k]) (keyWord_eq_nextWord key ⟨i, hi⟩)
  simpa only [nextWord_get, ← expandKey_get_word] using hword

/-- Settles O18: the first 16 bytes are the key. -/
theorem expandKeyIsInjective : Obligations.ExpandKeyIsInjective := by
  intro k1 k2 h
  apply Vector.ext
  intro n hn
  rw [← expandKey_get_first k1 n hn, ← expandKey_get_first k2 n hn, h n hn]

/-- Settles O25: the two outcomes of an acceptance. -/
theorem expandAcceptance : Obligations.ExpandAcceptance :=
  fun _ hb => ⟨exec_expand_of_klen hb, exec_expand_of_klen_ne hb⟩

/-- Settles O29: the command holds, starts or fails; what it then writes is at the offsets set apart. -/
theorem expandFrame : Obligations.ExpandFrame := by
  intro s t h
  rcases acceptCommand_cases s (expandErrors s) State.startExpand with ⟨-, he⟩ | ⟨-, hnone, he⟩ | ⟨-, -, he⟩ <;>
    obtain rfl := Host.Outcome.next.inj (he.symm.trans h)
  · simp
  · have hk := (expandErrors_eq_zero_iff s).mp hnone
    refine ⟨fun a hstatus herr hkey => ?_, fun hne => absurd hk hne, by simp⟩
    rw [readByte_startExpand hstatus hkey, readByte_setErr _ herr]
  · exact ⟨fun a _ herr _ => readByte_setErr _ herr, fun _ a herr => readByte_setErr _ herr, by simp⟩

/-- Settles O31: the stored word is the recurrence's, read from the words of `EKMEM`. -/
theorem ksEngineStepComputesOneWord : Obligations.KsEngineStepComputesOneWord := by
  intro s h ho
  refine ⟨storeWord s.ekmem ⟨s.widx.toNat, by omega⟩ (ksWord s ⟨s.widx.toNat, h⟩), fun n hn hne => ?other,
    fun k hk => ?word, fun hlt => ?next, fun hlast => ?last⟩
  case other => exact storeWord_get_other _ _ _ _ _ hne
  case word => simp only [storeWord_get_same _ ⟨s.widx.toNat, _⟩ _ k hk, ksWord, nextWord_get, wordAt_get]
  case next => rw [engineStep_of_ks ho, ksStep_of_lt_last h hlt, State.ksNext]
  case last => rw [engineStep_of_ks ho, ksStep_of_last h (by omega), State.ksLast, expandedKeyLength]

/-- Settles O34: step by step; each writes only at the offsets set apart. -/
theorem engineStepFrame : Obligations.EngineStepFrame := by
  intro s t h
  rcases engineStep_next h with ⟨ho, hi, ⟨hw, rfl⟩ | ⟨hw, rfl⟩⟩ | ⟨ho, ⟨hr, rfl⟩ | ⟨hr, rfl⟩ | ⟨hr, rfl⟩⟩
  · exact ⟨fun _ => ⟨fun a ha _ => readByte_ksNext _ _ ha, by simp⟩, by simp [ho], by simp⟩
  · refine ⟨fun _ => ⟨fun a ha hlast => ?_, by simp⟩, by simp [ho], by simp⟩
    obtain ⟨hstatus, heklen⟩ := hlast hw
    rw [readByte_ksLast _ _ hstatus heklen, readByte_ksNext _ _ ha]
  · exact ⟨by simp [ho], fun _ => ⟨fun a _ => readByte_bcNext _ a, by simp⟩, by simp⟩
  · exact ⟨by simp [ho], fun _ => ⟨fun a _ => readByte_bcNext _ a, by simp⟩, by simp⟩
  · refine ⟨by simp [ho], fun _ => ⟨fun a hlast => ?_, by simp⟩, by simp⟩
    obtain ⟨hstatus, hout⟩ := hlast hr
    exact readByte_bcLast _ hstatus hout

/-- Settles O35: the acceptance, then KS runs to its end; up to step 40 it has not come to its last word. -/
theorem expandRunsToItsResult : Obligations.ExpandRunsToItsResult := by
  refine fun s rest hb hs hh => ⟨fun hk => ⟨fun n h1 h40 => ?busy, ?result⟩, fun hk => ?fails⟩
  case busy =>
    obtain ⟨m, rfl⟩ := Nat.exists_eq_add_of_le' h1
    have hstep := (step_expand hb hs hh).trans
      (acceptCommand_start _ hb ((expandErrors_eq_zero_iff s).mpr hk))
    obtain ⟨t, hrun, hbusy, hhost⟩ :=
      run_ks_busy m ((s.dropTurn.dropHost.reply .done).setErr 0x00#8).startExpand (by simp [hs]) (by simp) (by simp)
        (by simp) (show 4 + m ≤ 43 by omega)
    exact ⟨t, (run_succ hstep).trans hrun, hbusy, by simpa [hh] using hhost, by simp [statusByte_eq, hbusy]⟩
  case result => exact run_expand hb hs hh ((expandErrors_eq_zero_iff s).mpr hk)
  case fails =>
    have hstep := (step_expand hb hs hh).trans (acceptCommand_fail _ hb ((expandErrors_eq_zero_iff s).not.mpr hk))
    refine (run_succ hstep).trans ?_
    rw [expandErrors_of_klen_ne hk, respond_eq hh, hs]
    rfl

end Sys2Proof.Proofs
end

section
/-! SUPPORT. The round operations of BC: their laws byte by byte (R90 to R93), and that each of them, a round and the whole of
`Cipher` is a bijection on blocks (R94, R99). -/

namespace Sys2Proof.Machine

open Function

/-! ### AddRoundKey and SubBytes -/

/-- The same round key added twice cancels. -/
theorem addRoundKey_addRoundKey (ek : ExpandedKey) (r : RoundIndex) (b : Block) :
    addRoundKey (addRoundKey b ek r) ek r = b := by
  ext1 j hj
  simp [addRoundKey_get]

theorem addRoundKey_bijective (ek : ExpandedKey) (r : RoundIndex) : Bijective (addRoundKey · ek r) :=
  Involutive.bijective (addRoundKey_addRoundKey ek r)

theorem subBytes_bijective : Bijective subBytes := by
  refine bijective_iff_has_inverse.mpr ⟨Vector.map invSbox, fun b => ?left, fun b => ?right⟩
  case left => ext1 j hj; simp [subBytes_get]
  case right => ext1 j hj; simp [subBytes_get]

/-! ### ShiftRows -/

/-- In one number: row and column of a byte move together as multiplication by 5 modulo 16. -/
theorem shiftRows_get_mul (b : Block) (j : Nat) (hj : j < 16) : (shiftRows b)[j] = b[5 * j % 16]'(by omega) := by
  have hindex : j % 4 + 4 * ((j / 4 + j % 4) % 4) = 5 * j % 16 := by omega
  simp only [shiftRows_get, hindex]

theorem shiftRows_subBytes (b : Block) : shiftRows (subBytes b) = subBytes (shiftRows b) := by
  ext1 j hj
  simp only [shiftRows_get, subBytes_get]

/-- `5 ^ 4` is 1 modulo 16, so four applications move every byte back. -/
theorem shiftRows_four (b : Block) : shiftRows (shiftRows (shiftRows (shiftRows b))) = b := by
  ext1 j hj
  have hindex : 5 * (5 * (5 * (5 * j % 16) % 16) % 16) % 16 = j := by omega
  simp only [shiftRows_get_mul, hindex]

/-- A byte moves within its row, where equal columns all have the same byte. -/
theorem shiftRows_of_equal_columns {b : Block} (h : ∀ (j : Nat) (h : j < 12), b[j + 4] = b[j]) : shiftRows b = b := by
  have hrow (r c : Nat) (hj : r + 4 * c < 16) : b[r + 4 * c] = b[r]'(by omega) := by
    induction c with
    | zero => rfl
    | succ c ih => exact (h (r + 4 * c) (by omega)).trans (ih (by omega))
  ext1 j hj
  have hsame := hrow (j % 4) (j / 4) (by omega)
  simp only [Nat.mod_add_div] at hsame
  rw [shiftRows_get, hrow _ _ (by omega), hsame]

/-- A function whose fourth iterate is the identity is a bijection. -/
theorem bijective_of_iterate_four {α : Type*} {f : α → α} (h : ∀ b, f (f (f (f b))) = b) : Bijective f :=
  ⟨LeftInverse.injective (g := f ∘ f ∘ f) h, RightInverse.surjective (g := f ∘ f ∘ f) h⟩

theorem shiftRows_bijective : Bijective shiftRows := bijective_of_iterate_four shiftRows_four

/-! ### MixColumns -/

/-- A row of the matrix of R93, its coefficients 2, 3, 1, 1 applied to the column from the row's own byte on. -/
def mixByte (p q r t : Byte) : Byte := gmul 0x02#8 p ^^^ gmul 0x03#8 q ^^^ r ^^^ t

theorem mixColumn_get (a : Word) (i : Nat) (hi : i < 4) : (mixColumn a)[i] =
    mixByte a[i] (a[(i + 1) % 4]'(by omega)) (a[(i + 2) % 4]'(by omega)) (a[(i + 3) % 4]'(by omega)) := by
  interval_cases i <;> simp [mixColumn, mixByte] <;> ac_rfl

theorem mixByte_xor (p p' q q' r r' t t' : Byte) :
    mixByte (p ^^^ p') (q ^^^ q') (r ^^^ r') (t ^^^ t') = mixByte p q r t ^^^ mixByte p' q' r' t' := by
  simp only [mixByte, gmul_xor]
  ac_rfl

/-- Only doublings and sums remain of the products by 2 and 3. -/
theorem mixByte_eq (p q r t : Byte) : mixByte p q r t = xtime p ^^^ xtime q ^^^ q ^^^ r ^^^ t := by
  simp only [mixByte, two_gmul, three_gmul]
  ac_rfl

theorem mixByte_self (x : Byte) : mixByte x x x x = x := by
  simp [mixByte_eq]

/-- With commutativity and associativity it sorts a sum, so that `simp` finds equal terms side by side. -/
theorem xor_left_comm_byte (a b c : Byte) : a ^^^ (b ^^^ c) = b ^^^ (a ^^^ c) := by
  ac_rfl

/-- The square of the matrix of R93 has the coefficients 5, 0, 4, 0. -/
theorem mixByte_mixByte (p q r t : Byte) :
    mixByte (mixByte p q r t) (mixByte q r t p) (mixByte r t p q) (mixByte t p q r) =
      xtime (xtime (p ^^^ r)) ^^^ p := by
  simp only [mixByte_eq, xtime_xor, BitVec.xor_comm, xor_left_comm_byte, BitVec.xor_assoc, xor_cancel_left (α := Byte)]

theorem mixColumn_mixColumn_get (a : Word) (i : Nat) (hi : i < 4) : (mixColumn (mixColumn a))[i] =
    xtime (xtime (a[i] ^^^ a[(i + 2) % 4]'(by omega))) ^^^ a[i] := by
  interval_cases i <;> simp only [mixColumn_get, Nat.reduceAdd, Nat.reduceMod, mixByte_mixByte]

/-- The square of the square is the identity: the two terms with coefficient 4 are equal and cancel. -/
theorem mixColumn_four (a : Word) : mixColumn (mixColumn (mixColumn (mixColumn a))) = a := by
  ext1 i hi
  have hback : ((i + 2) % 4 + 2) % 4 = i := by omega
  simp only [mixColumn_mixColumn_get, hback]
  generalize a[i] = p, a[(i + 2) % 4] = r
  simp only [xtime_xor, BitVec.xor_comm, xor_left_comm_byte, BitVec.xor_assoc, BitVec.xor_self, BitVec.xor_zero]

/-- The columns of the result are those of the operand, each put through `mixColumn`. -/
theorem blockWord_mixColumns (b : Block) (c : Fin 4) : blockWord (mixColumns b) c = mixColumn (blockWord b c) := by
  ext1 k hk
  have hcol : (4 * c.val + k) / 4 = c.val := by omega
  have hrow : (4 * c.val + k) % 4 = k := by omega
  simp only [blockWord_get, mixColumns_get, hcol, hrow]

/-- A block is determined by its columns. -/
theorem block_ext {a b : Block} (h : ∀ c, blockWord a c = blockWord b c) : a = b := by
  ext1 j hj
  have hbyte := congrArg (fun w : Word => w[j % 4]) (h ⟨j / 4, by omega⟩)
  simpa only [blockWord_get, Nat.div_add_mod] using hbyte

theorem mixColumns_four (b : Block) : mixColumns (mixColumns (mixColumns (mixColumns b))) = b :=
  block_ext fun c => by simp only [blockWord_mixColumns, mixColumn_four]

theorem mixColumns_bijective : Bijective mixColumns := bijective_of_iterate_four mixColumns_four

/-- Byte `k` of column `c`, from the bytes of that column (R93). -/
theorem mixColumns_get_mixByte (b : Block) (c k : Nat) (hc : c < 4) (hk : k < 4) : (mixColumns b)[4 * c + k] =
    mixByte b[4 * c + k] b[4 * c + (k + 1) % 4] b[4 * c + (k + 2) % 4] b[4 * c + (k + 3) % 4] := by
  have hword := congrArg (fun w : Word => w[k]) (blockWord_mixColumns b ⟨c, hc⟩)
  simpa only [mixColumn_get, blockWord_get] using hword

/-! ### Cipher -/

theorem standardRound_bijective (ek : ExpandedKey) (r : RoundIndex) : Bijective (standardRound ek r) :=
  (addRoundKey_bijective ek r).comp (mixColumns_bijective.comp (shiftRows_bijective.comp subBytes_bijective))

theorem finalRound_bijective (ek : ExpandedKey) : Bijective (finalRound ek) :=
  (addRoundKey_bijective ek 10).comp (shiftRows_bijective.comp subBytes_bijective)

theorem standardRounds_bijective (ek : ExpandedKey) (rs : List RoundIndex) :
    Bijective (rs.foldl (fun b r => standardRound ek r b)) := by
  induction rs with
  | nil => exact bijective_id
  | cons r rs ih => exact ih.comp (standardRound_bijective ek r)

theorem cipher_bijective (ek : ExpandedKey) : Bijective (cipher · ek) := by
  have hrounds := standardRounds_bijective ek [1, 2, 3, 4, 5, 6, 7, 8, 9]
  simpa only [comp_def, cipher] using (finalRound_bijective ek).comp (hrounds.comp (addRoundKey_bijective ek 0))

end Sys2Proof.Machine
end

section
/-! SUPPORT. ENCRYPT: its two outcomes (R95), what it leaves in the readable window, and BC before its last step (R97). -/

namespace Sys2Proof.Machine

variable {s : State}

theorem exec_encrypt_of_lengths (hb : s.busy = false) (hl : s.blen = 16#8) (hk : s.eklen = 176#8) :
    exec .encrypt s = .next (s.setErr 0x00#8).startEncrypt :=
  acceptCommand_start State.startEncrypt hb ((encryptErrors_eq_zero_iff s).mpr ⟨hl, hk⟩)

theorem encryptErrors_ne_zero (h : s.blen ≠ 16#8 ∨ s.eklen ≠ 176#8) : encryptErrors s ≠ 0x00#8 := by
  rw [ne_eq, encryptErrors_eq_zero_iff, not_and_or]
  exact h

theorem exec_encrypt_of_wrong_length (hb : s.busy = false) (h : s.blen ≠ 16#8 ∨ s.eklen ≠ 176#8) :
    exec .encrypt s = .next (s.setErr (encryptErrors s)) :=
  acceptCommand_fail State.startEncrypt hb (encryptErrors_ne_zero h)

/-- The causes that a failing ENCRYPT reports: one bit for each wrong length (R95, R116). -/
theorem encryptErrors_of_wrong_length (h : s.blen ≠ 16#8 ∨ s.eklen ≠ 176#8) :
    encryptErrors s = 0x02#8 ∨ encryptErrors s = 0x04#8 ∨ encryptErrors s = 0x06#8 := by
  rw [encryptErrors_eq]
  by_cases hl : s.blen = 16#8 <;> by_cases hk : s.eklen = 176#8 <;> simp [hl, hk] at h ⊢

theorem readByte_startEncrypt {a : Offset} (ha : a ≠ 0x001#9) : s.startEncrypt.readByte a = s.readByte a := by
  obtain ⟨-, hstatus, -, -, -, -⟩ := locate_control (a := a)
  cases hl : locate a with
  | status => exact absurd (hstatus hl) ha
  | _ => simp [State.readByte, hl]

theorem bcStep_of_not_last (hr : s.rnd.toNat ≤ 9) : ∃ b, bcStep s = .next (s.bcNext b) := by
  rcases Nat.eq_zero_or_pos s.rnd.toNat with h0 | hpos
  · exact ⟨_, bcStep_of_zero h0⟩
  · exact ⟨_, bcStep_of_standard ⟨hpos, hr⟩⟩

/-- Before its last step BC is busy and answers no transaction (R97). -/
theorem run_bc_busy (n : Nat) (s : State) (hs : s.sched = []) (hb : s.busy = true) (ho : s.op = .bc)
    (hn : s.rnd.toNat + n ≤ 10) :
    ∃ t : State, Host.Core.run Sys2Proof.core n s = .next t ∧ t.busy = true ∧ t.host = s.host := by
  induction n generalizing s with
  | zero => exact ⟨s, rfl, hb, rfl⟩
  | succ n ih =>
    obtain ⟨b, hbc⟩ := bcStep_of_not_last (s := s) (by omega)
    have hw : (s.rnd + 1#4).toNat = s.rnd.toNat + 1 := by bv_omega
    rw [run_succ ((step_of_bc hs hb ho).trans hbc)]
    exact ih (s.bcNext b) hs hb ho (by rw [State.bcNext_rnd, hw]; omega)

end Sys2Proof.Machine
end

section
/-! PROOFS. The block cipher: the round operations (R90 to R93), `Cipher` (R94), ENCRYPT (R95, R97), and the BC engine step
(R96). -/

namespace Sys2Proof.Proofs

open Sys2Proof.Machine Sys2Proof.Safety

/-- Settles O19: the round key's byte stands at the same position, and xor undoes itself. -/
theorem addRoundKeyIsItsOwnInverse : Obligations.AddRoundKeyIsItsOwnInverse :=
  fun b ek r => ⟨addRoundKey_get b ek r, addRoundKey_addRoundKey ek r b⟩

/-- Settles O20: the table is the index map written out, and the laws are those of the index `5 * j` modulo 16. -/
theorem shiftRowsIsThePrintedPermutation : Obligations.ShiftRowsIsThePrintedPermutation := by
  refine ⟨fun b => ?table, subBytes_get, shiftRows_subBytes, shiftRows_four, fun b => shiftRows_of_equal_columns⟩
  case table =>
    ext1 j hj
    rw [shiftRows_get_mul]
    interval_cases j <;> rfl

/-- Settles O21: every byte of the result is one row of the matrix applied to its column. -/
theorem mixColumnsIsLinear : Obligations.MixColumnsIsLinear := by
  refine ⟨fun a b x hx j hj => ?linear, fun x => ?equal, fun b c hc => ?column, by decide⟩
  case linear =>
    have hget (y : Block) := mixColumns_get_mixByte y (j / 4) (j % 4) (by omega) (by omega)
    simp only [Nat.div_add_mod] at hget
    simp only [hget, hx, mixByte_xor]
  case equal =>
    ext1 i hi
    rw [mixColumn_get]
    interval_cases i <;> exact mixByte_self x
  case column =>
    have hget (k : Nat) (hk : k < 4) := mixColumns_get_mixByte b c k hc hk
    refine ⟨hget 0 (by omega), (hget 1 (by omega)).trans ?_, (hget 2 (by omega)).trans ?_, (hget 3 (by omega)).trans ?_⟩
    all_goals
      simp only [mixByte, Nat.reduceAdd, Nat.reduceMod, Nat.add_zero]
      ac_rfl

/-- Settles O22: `Cipher` is a composition of bijections. -/
theorem cipherIsABijection : Obligations.CipherIsABijection :=
  fun ek c => (cipher_bijective ek).existsUnique c

/-- Settles O26: the start, and the failures with the bits of the lengths that are wrong. -/
theorem encryptAcceptance : Obligations.EncryptAcceptance := by
  refine fun s hb => ⟨exec_encrypt_of_lengths hb, fun hl hk => ?block, fun hl hk => ?key, fun hl hk => ?both⟩
  case block => rw [exec_encrypt_of_wrong_length hb (.inl hl), encryptErrors_eq, if_neg hl, if_pos hk]; rfl
  case key => rw [exec_encrypt_of_wrong_length hb (.inr hk), encryptErrors_eq, if_pos hl, if_neg hk]; rfl
  case both => rw [exec_encrypt_of_wrong_length hb (.inl hl), encryptErrors_eq, if_neg hl, if_neg hk]; rfl

/-- Settles O30: the command holds, starts or fails; what it then writes is at the offsets set apart. -/
theorem encryptFrame : Obligations.EncryptFrame := by
  intro s t h
  rcases acceptCommand_cases s (encryptErrors s) State.startEncrypt with ⟨-, he⟩ | ⟨-, hnone, he⟩ | ⟨-, -, he⟩ <;>
    obtain rfl := Host.Outcome.next.inj (he.symm.trans h)
  · simp
  · refine ⟨fun a hstatus herr => ?_, fun hwrong => absurd hnone (encryptErrors_ne_zero hwrong), by simp⟩
    rw [readByte_startEncrypt hstatus, readByte_setErr _ herr]
  · exact ⟨fun a _ herr => readByte_setErr _ herr, fun _ a herr => readByte_setErr _ herr, by simp⟩

/-- Settles O32: the three arms of the step, by the value of `RND`. -/
theorem bcEngineStepAddsOneRoundKey : Obligations.BcEngineStepAddsOneRoundKey := by
  refine fun s ho => ⟨fun hr => ?first, fun hr => ?standard, fun hr => ?last⟩
  case first => rw [engineStep_of_bc ho, bcStep_of_zero (by simp [hr]), State.bcNext, hr]; rfl
  case standard => rw [engineStep_of_bc ho, bcStep_of_standard hr, State.bcNext, standardRound]
  case last => rw [engineStep_of_bc ho, bcStep_of_last (by simp [hr]), State.bcLast, finalRound]

/-- Settles O36: the acceptance, then BC runs to its end; up to step 11 it has not come to its last round. -/
theorem encryptRunsToItsResult : Obligations.EncryptRunsToItsResult := by
  refine fun s rest hb hs hh => ⟨fun hl hk => ⟨fun n h1 h11 => ?busy, ?result⟩, fun hwrong => ?fails⟩
  case busy =>
    obtain ⟨m, rfl⟩ := Nat.exists_eq_add_of_le' h1
    have hstep := (step_encrypt hb hs hh).trans
      (acceptCommand_start _ hb ((encryptErrors_eq_zero_iff s).mpr ⟨hl, hk⟩))
    obtain ⟨t, hrun, hbusy, hhost⟩ :=
      run_bc_busy m ((s.dropTurn.dropHost.reply .done).setErr 0x00#8).startEncrypt (by simp [hs]) rfl rfl
        (show 0 + m ≤ 10 by omega)
    exact ⟨t, (run_succ hstep).trans hrun, hbusy, by simpa [hh] using hhost, by simp [statusByte_eq, hbusy]⟩
  case result => exact run_encrypt hb hs hh ((encryptErrors_eq_zero_iff s).mpr ⟨hl, hk⟩)
  case fails =>
    have hstep := (step_encrypt hb hs hh).trans (acceptCommand_fail _ hb (encryptErrors_ne_zero hwrong))
    refine ⟨encryptErrors s, encryptErrors_of_wrong_length hwrong, (run_succ hstep).trans ?_⟩
    rw [respond_eq hh, hs]
    rfl

end Sys2Proof.Proofs
end

section
/-! PROOFS. Error entry: what a write to `CMD` reports in `ERR` (R110 to R116), and that a failing command does nothing else
(R117). -/

namespace Sys2Proof.Machine

/-- An acceptance by an idle core leaves the causes in `ERR` and the core busy exactly when there are none, given that `start`
makes the core busy and leaves `ERR` alone. A command that always has a cause never runs its `start`. -/
theorem acceptCommand_reports {s : State} {e : Byte} {start : State → State} (hb : s.busy = false)
    (hstart : e = 0x00#8 → ∀ u, (start u).err = u.err ∧ (start u).busy = true) :
    ∃ t, acceptCommand s e start = .next t ∧ t.err = e ∧ (t.busy = true ↔ t.err = 0x00#8) := by
  by_cases he : e = 0x00#8
  · obtain ⟨herr, hbusy⟩ := hstart he (s.setErr 0x00#8)
    exact ⟨_, acceptCommand_start start hb he, by simp [herr, he], by simp [herr, hbusy]⟩
  · exact ⟨_, acceptCommand_fail start hb he, by simp, by simp [hb, he]⟩

end Sys2Proof.Machine

namespace Sys2Proof.Proofs

open Sys2Proof.Machine Sys2Proof.Safety

/-- Settles O27: a write to `CMD` is an acceptance with the causes of its code; a reserved code always has one. -/
theorem commandWriteReportsItsCauses : Obligations.CommandWriteReportsItsCauses := by
  intro s v rest hb hh hn
  rw [step_command hb hh hn]
  rcases decodeCode_cases v with ⟨rfl, hcode⟩ | ⟨rfl, hcode⟩ | ⟨hexpand, hencrypt, hcode⟩
  · rw [issueCommand_of_decodeCode hcode, if_pos rfl, ← expandErrors_eq]
    exact acceptCommand_reports hb fun _ u => ⟨u.startExpand_err, u.startExpand_busy⟩
  · rw [issueCommand_of_decodeCode hcode, if_neg (by decide), if_pos rfl, ← encryptErrors_eq]
    exact acceptCommand_reports hb fun _ u => ⟨u.startEncrypt_err, u.startEncrypt_busy⟩
  · rw [issueCommand_of_none hcode, if_neg hexpand, if_neg hencrypt]
    exact acceptCommand_reports hb fun hnone => absurd hnone (by decide)

/-- Settles O28: a command that starts leaves `ERR` 0x00, so this one failed and wrote its causes only. -/
theorem failedCommandChangesOnlyErr : Obligations.FailedCommandChangesOnlyErr := by
  intro s t v rest hb hh hn h hfailed
  rw [step_command hb hh hn] at h
  rcases issueCommand_next (s := s.dropTurn.dropHost.reply .done) hb h with
    ⟨-, -, rfl⟩ | ⟨-, -, -, rfl⟩ | ⟨e, -, -, rfl⟩
  · simp at hfailed
  · simp at hfailed
  · rw [respond_eq hh]
    rfl

end Sys2Proof.Proofs
end

section
/-! SUPPORT. Two runs at once: what the machine does in two states that share their control state (R134). -/

namespace Sys2Proof.Safety

open Sys2Proof.Machine

variable {s t : State}

/-! ### The writes of the state

A write of the data storage may differ between the two states; a write of the control state is the same in both. -/

theorem SameControl.setErr (h : SameControl s t) (e : Byte) : SameControl (s.setErr e) (t.setErr e) :=
  { h with err := rfl }

theorem SameControl.setKlen (h : SameControl s t) (v : Byte) : SameControl (s.setKlen v) (t.setKlen v) :=
  { h with klen := rfl }

theorem SameControl.setBlen (h : SameControl s t) (v : Byte) : SameControl (s.setBlen v) (t.setBlen v) :=
  { h with blen := rfl }

theorem SameControl.setEklen (h : SameControl s t) (v : Byte) : SameControl (s.setEklen v) (t.setEklen v) :=
  { h with eklen := rfl }

theorem SameControl.setKeybuf (h : SameControl s t) (i : Fin 16) (v v' : Byte) :
    SameControl (s.setKeybuf i v) (t.setKeybuf i v') :=
  { h with }

theorem SameControl.setInbuf (h : SameControl s t) (i : Fin 16) (v v' : Byte) :
    SameControl (s.setInbuf i v) (t.setInbuf i v') :=
  { h with }

theorem SameControl.setEkmem (h : SameControl s t) (i : Fin 176) (v v' : Byte) :
    SameControl (s.setEkmem i v) (t.setEkmem i v') :=
  { h with }

theorem SameControl.startExpand (h : SameControl s t) : SameControl s.startExpand t.startExpand := by
  unfold State.startExpand
  generalize storeKey s.ekmem s.keybuf = ek, storeKey t.ekmem t.keybuf = ek'
  exact { h with widx := rfl, op := rfl, busy := rfl }

theorem SameControl.ksNext (h : SameControl s t) (i i' : Fin 44) (w w' : Word) :
    SameControl (s.ksNext i w) (t.ksNext i' w') := by
  unfold State.ksNext
  generalize storeWord s.ekmem i w = ek, storeWord t.ekmem i' w' = ek'
  exact { h with widx := congrArg (· + 1#6) h.widx }

theorem SameControl.ksLast (h : SameControl s t) (i i' : Fin 44) (w w' : Word) :
    SameControl (s.ksLast i w) (t.ksLast i' w') := by
  unfold State.ksLast
  generalize storeWord s.ekmem i w = ek, storeWord t.ekmem i' w' = ek'
  exact { h with widx := rfl, eklen := rfl, busy := rfl }

theorem SameControl.startEncrypt (h : SameControl s t) : SameControl s.startEncrypt t.startEncrypt :=
  { h with rnd := rfl, op := rfl, busy := rfl }

theorem SameControl.bcNext (h : SameControl s t) (b b' : Block) : SameControl (s.bcNext b) (t.bcNext b') :=
  { h with rnd := congrArg (· + 1#4) h.rnd }

theorem SameControl.bcLast (h : SameControl s t) (b b' : Block) : SameControl (s.bcLast b) (t.bcLast b') :=
  { h with rnd := rfl, busy := rfl }

theorem SameControl.takeReset (h : SameControl s t) (d d' : ResetDraw) :
    SameControl (s.takeReset d) (t.takeReset d') :=
  ⟨rfl, rfl, rfl, rfl, rfl, rfl, rfl, rfl, h.host, h.sched, h.replies⟩

theorem SameControl.dropTurn (h : SameControl s t) : SameControl s.dropTurn t.dropTurn :=
  { h with sched := congrArg List.tail h.sched }

theorem SameControl.dropHost (h : SameControl s t) : SameControl s.dropHost t.dropHost :=
  { h with host := congrArg List.tail h.host }

theorem SameControl.reply (h : SameControl s t) (r r' : Reply) : SameControl (s.reply r) (t.reply r') :=
  { h with replies := by simp [h.replies] }

/-! ### Host access, held transactions and causes -/

/-- A write stores a byte in both states or in neither (R37): the map alone decides. -/
theorem SameControl.storeByte (h : SameControl s t) (a : Offset) (v : Byte) :
    Option.Rel SameControl (s.storeByte a v) (t.storeByte a v) := by
  unfold State.storeByte
  cases locate a with
  | klen => exact .some (h.setKlen v)
  | blen => exact .some (h.setBlen v)
  | eklen => exact .some (h.setEklen v)
  | keybuf i => exact .some (h.setKeybuf i v v)
  | inbuf i => exact .some (h.setInbuf i v v)
  | ekmem i => exact .some (h.setEkmem i v v)
  | cmd | status | err | outbuf | reserved => exact .none

theorem SameControl.held_eq (h : SameControl s t) (o : HostOp) : held s o = held t o := by
  cases o <;> simp [held, h.busy]

theorem SameControl.expandErrors_eq (h : SameControl s t) : expandErrors s = expandErrors t := by
  rw [Machine.expandErrors_eq, Machine.expandErrors_eq, h.klen]

theorem SameControl.encryptErrors_eq (h : SameControl s t) : encryptErrors s = encryptErrors t := by
  rw [Machine.encryptErrors_eq, Machine.encryptErrors_eq, h.blen, h.eklen]

/-! ### The engines: the counter chooses the step (R82, R96) -/

theorem outcomeRel_ksStep (h : SameControl s t) : OutcomeRel SameControl (ksStep s) (ksStep t) := by
  have hw := h.widx
  by_cases hi : 4 ≤ s.widx.toNat ∧ s.widx.toNat ≤ 43
  · by_cases hlt : s.widx.toNat < 43
    · rw [ksStep_of_lt_last hi hlt, ksStep_of_lt_last (hw ▸ hi) (hw ▸ hlt)]
      exact h.ksNext _ _ _ _
    · rw [ksStep_of_last hi hlt, ksStep_of_last (hw ▸ hi) (hw ▸ hlt)]
      exact h.ksLast _ _ _ _
  · rw [ksStep_of_out_of_range hi, ksStep_of_out_of_range (hw ▸ hi)]
    exact congrArg Fault.widxOutOfRange hw

theorem outcomeRel_bcStep (h : SameControl s t) : OutcomeRel SameControl (bcStep s) (bcStep t) := by
  have hr := h.rnd
  obtain h0 | h9 | h10 | hout :
      s.rnd.toNat = 0 ∨ (1 ≤ s.rnd.toNat ∧ s.rnd.toNat ≤ 9) ∨ s.rnd.toNat = 10 ∨ 10 < s.rnd.toNat := by omega
  · rw [bcStep_of_zero h0, bcStep_of_zero (hr ▸ h0)]
    exact h.bcNext _ _
  · rw [bcStep_of_standard h9, bcStep_of_standard (hr ▸ h9)]
    exact h.bcNext _ _
  · rw [bcStep_of_last h10, bcStep_of_last (hr ▸ h10)]
    exact h.bcLast _ _
  · rw [bcStep_of_out_of_range hout, bcStep_of_out_of_range (hr ▸ hout)]
    exact congrArg Fault.rndOutOfRange hr

theorem outcomeRel_engineStep (h : SameControl s t) : OutcomeRel SameControl (engineStep s) (engineStep t) := by
  cases ho : s.op with
  | ks =>
    rw [engineStep_of_ks ho, engineStep_of_ks (h.op ▸ ho)]
    exact outcomeRel_ksStep h
  | bc =>
    rw [engineStep_of_bc ho, engineStep_of_bc (h.op ▸ ho)]
    exact outcomeRel_bcStep h

/-! ### Commands: the code and the lengths choose the outcome (R81, R95) -/

/-- The same causes have the same outcome, given that `start` treats the two states alike. -/
theorem outcomeRel_acceptCommand {start : State → State} (h : SameControl s t) (e : Byte)
    (hstart : ∀ {u w : State}, SameControl u w → SameControl (start u) (start w)) :
    OutcomeRel SameControl (acceptCommand s e start) (acceptCommand t e start) := by
  simp only [acceptCommand, h.busy]
  split_ifs
  · exact h
  · exact hstart (h.setErr e)
  · exact h.setErr e

theorem outcomeRel_issueCommand (h : SameControl s t) (v : Byte) :
    OutcomeRel SameControl (issueCommand s v) (issueCommand t v) := by
  cases hc : decodeCode v with
  | none =>
    rw [issueCommand_of_none hc, issueCommand_of_none hc]
    exact outcomeRel_acceptCommand h errBadcmd id
  | some i =>
    rw [issueCommand_of_decodeCode hc, issueCommand_of_decodeCode hc]
    cases i with
    | expand =>
      simp only [exec, execExpand, h.expandErrors_eq]
      exact outcomeRel_acceptCommand h _ SameControl.startExpand
    | encrypt =>
      simp only [exec, execEncrypt, h.encryptErrors_eq]
      exact outcomeRel_acceptCommand h _ SameControl.startEncrypt

/-! ### The host port: the offset and `BUSY` choose the outcome (R35 to R38) -/

/-- The bytes returned may differ, whether one is returned does not. -/
theorem outcomeRel_serve_read (h : SameControl s t) (a : Offset) :
    OutcomeRel SameControl (serve s (.read a)) (serve t (.read a)) := by
  cases hp : permitted (.read a) with
  | false =>
    rw [serve_read_of_not_permitted hp, serve_read_of_not_permitted hp]
    rfl
  | true =>
    have hsome (u : State) : ∃ v, u.readByte a = some v :=
      Option.ne_none_iff_exists'.mp fun hn => by simp [readByte_eq_none_iff.mp hn] at hp
    obtain ⟨v, hv⟩ := hsome s
    obtain ⟨v', hv'⟩ := hsome t
    rw [serve_read_of_readByte hv, serve_read_of_readByte hv']
    exact h.dropHost.reply _ _

theorem outcomeRel_serve_write (h : SameControl s t) (a : Offset) (v : Byte) :
    OutcomeRel SameControl (serve s (.write a v)) (serve t (.write a v)) := by
  simp only [serve, serveWrite]
  split_ifs
  · exact outcomeRel_issueCommand (h.dropHost.reply _ _) v
  · have hrel := h.storeByte a v
    generalize s.storeByte a v = x, t.storeByte a v = y at hrel ⊢
    cases hrel with
    | some hu => exact hu.dropHost.reply _ _
    | none => rfl

theorem outcomeRel_serve_poll (h : SameControl s t) : OutcomeRel SameControl (serve s .poll) (serve t .poll) := by
  cases hb : s.busy with
  | true =>
    rw [serve_poll_busy hb, serve_poll_busy (h.busy ▸ hb)]
    exact h.reply _ _
  | false =>
    rw [serve_poll_idle hb, serve_poll_idle (h.busy ▸ hb)]
    exact h.dropHost.reply _ _

theorem outcomeRel_serve (h : SameControl s t) (o : HostOp) : OutcomeRel SameControl (serve s o) (serve t o) := by
  cases o with
  | read a => exact outcomeRel_serve_read h a
  | write a v => exact outcomeRel_serve_write h a v
  | poll => exact outcomeRel_serve_poll h

/-! ### One step: `sched`, `BUSY` and the host's list choose who moves (R36, R125, R135) -/

theorem outcomeRel_hostTurn (h : SameControl s t) : OutcomeRel SameControl (hostTurn s) (hostTurn t) := by
  unfold hostTurn
  rw [← h.host, ← h.busy]
  cases s.host with
  | nil =>
    dsimp only
    split_ifs
    · exact outcomeRel_engineStep h
    · exact h
  | cons o rest =>
    dsimp only
    rw [← h.held_eq]
    split_ifs
    · exact outcomeRel_engineStep h
    · exact outcomeRel_serve h o

theorem outcomeRel_engineTurn (h : SameControl s t) : OutcomeRel SameControl (engineTurn s) (engineTurn t) := by
  unfold engineTurn
  rw [← h.busy]
  split_ifs
  · exact outcomeRel_engineStep h
  · exact outcomeRel_hostTurn h

/-- One step keeps the relation, or both states stop for the same reason. -/
theorem outcomeRel_step (h : SameControl s t) : OutcomeRel SameControl (step s) (step t) := by
  unfold step takeTurn
  rw [← h.sched]
  match s.sched with
  | [] => exact outcomeRel_engineTurn h
  | .host :: _ => exact outcomeRel_hostTurn h.dropTurn
  | .engine :: _ => exact outcomeRel_engineTurn h.dropTurn
  | .reset d :: _ => exact h.dropTurn.takeReset d d

/-! ### Whole runs -/

/-- Everything that two related outcomes can be. -/
theorem OutcomeRel.cases {R : State → State → Prop} {o p : Host.Outcome State Fault Refusal} (h : OutcomeRel R o p) :
    (∃ s t, o = .next s ∧ p = .next t ∧ R s t) ∨ (∃ f, o = .fault f ∧ p = .fault f) ∨
      (∃ r, o = .refused r ∧ p = .refused r) := by
  match o, p, h with
  | .next s, .next t, h => exact .inl ⟨s, t, rfl, rfl, h⟩
  | .fault f, .fault _, h => exact .inr (.inl ⟨f, rfl, congrArg _ h.symm⟩)
  | .refused r, .refused _, h => exact .inr (.inr ⟨r, rfl, congrArg _ h.symm⟩)

theorem coreRun_fault (M : Host.Core) (n : Nat) {s : M.State} {f : M.Fault} (h : M.step s = .fault f) :
    M.run (n + 1) s = .fault f := by
  simp [Host.Core.run, h]

theorem coreRun_refused (M : Host.Core) (n : Nat) {s : M.State} {r : M.Refusal} (h : M.step s = .refused r) :
    M.run (n + 1) s = .refused r := by
  simp [Host.Core.run, h]

/-- A relation that one step keeps, stops included, is kept by runs of any length. -/
theorem outcomeRel_run {R : State → State → Prop} (hstep : ∀ s t, R s t → OutcomeRel R (step s) (step t)) (n : Nat)
    {s t : State} (h : R s t) :
    OutcomeRel R (Host.Core.run Sys2Proof.core n s) (Host.Core.run Sys2Proof.core n t) := by
  induction n generalizing s t with
  | zero => exact h
  | succ n ih =>
    obtain ⟨s', t', hs, ht, hrel⟩ | ⟨f, hs, ht⟩ | ⟨r, hs, ht⟩ := (hstep s t h).cases
    · rw [run_succ hs, run_succ ht]
      exact ih hrel
    · rw [coreRun_fault Sys2Proof.core n hs, coreRun_fault Sys2Proof.core n ht]
      rfl
    · rw [coreRun_refused Sys2Proof.core n hs, coreRun_refused Sys2Proof.core n ht]
      rfl

end Sys2Proof.Safety
end

section
/-! PROOFS. A reset in any state (R126, R127), and the independence of the control from the data (R134). -/

namespace Sys2Proof.Machine

/-- A turn of the reset input: it acts whatever runs and whatever the host asks for (R125). -/
theorem step_of_reset {s : State} {d : ResetDraw} {ts : List Turn} (hs : s.sched = .reset d :: ts) :
    step s = .next (s.dropTurn.takeReset d) := by
  simp [step, takeTurn, hs]

end Sys2Proof.Machine

namespace Sys2Proof.Proofs

open Sys2Proof.Machine Sys2Proof.Safety

/-- Settles O58: sharing the control state is kept by every step, so by every run. -/
theorem controlNeverDependsOnData : Obligations.ControlNeverDependsOnData :=
  fun n _ _ h => outcomeRel_run (fun _ _ => outcomeRel_step) n h

/-- Settles O52: the reset turn is taken, and the host's operations stay. -/
theorem resetEventInAnyState : Obligations.ResetEventInAnyState := by
  intro s d ts hs
  rw [step_of_reset hs, State.takeReset, State.dropTurn, hs]
  rfl

end Sys2Proof.Proofs
end
